-- ==== Sys2Proof/Word.lean ====
section
/-! DEFINITION. The widths of the block's words: a command word, RESULT and every register of the
map are 32 bits (R36, R100, R105), the counting and compare registers hold 16 (R36, R49). -/

namespace Sys2Proof

/-- A 32-bit word: command word, RESULT, a register of the map. -/
abbrev Word := BitVec 32

/-- A 16-bit value: PSC, ARR, CCRi, their shadow copies, CNT, PSCNT. -/
abbrev Half := BitVec 16

/-- A byte of the register block when it is mapped into a byte-addressed space (R84). -/
abbrev Byte := BitVec 8

end Sys2Proof
end

