-- ==== Sys2Proof/Config.lean ====
section
/-! DEFINITION. The implementation parameters of R7 at the values R7 gives them, the names of the
channels and registers those parameters are indexed by, and the one parameter R7 leaves OPEN. -/

namespace Sys2Proof

/-- The `NCH` = 4 channels (R7, R103), numbered 1 to 4. -/
inductive Channel where
  | ch1
  | ch2
  | ch3
  | ch4
deriving DecidableEq, Repr

/-- The registers of R36 that are stored as whole 32-bit words. -/
inductive WordReg where
  | cr1
  | ccmr1
  | ccmr2
  | ccer
  | bdtr
deriving DecidableEq, Repr

/-- The timer registers of R36. -/
inductive Reg where
  | word (r : WordReg)
  | psc
  | arr
  | egr
  | ccr (ch : Channel)
deriving DecidableEq, Repr

namespace Config

/-- `W`: the width of `CLK_RATE` and `TARGET_FREQ` (R7, default 32; log 5). -/
abbrev operandWidth : Nat := 32

/-- `PSC_SPAN`: the divisor used to pick the prescaler (R7). -/
def pscSpan : Nat := 65536

/-- `OCM_PWM1`: the output-compare mode field's value for PWM mode 1 (R7). -/
def ocmPwm1 : Word := 0b110#32

/-- `SUPPORTED_SETS`: the channel sets a pin group may bind (R7, C7; log 8). -/
def supportedSets : List (BitVec 4) := [0b1111#4]

/-- `RESET_VALUE(reg)` of a register stored as a word: default 0 (R7, R54; log 6). -/
def resetWord : WordReg → Word
  | .cr1 => 0#32
  | .ccmr1 => 0#32
  | .ccmr2 => 0#32
  | .ccer => 0#32
  | .bdtr => 0#32

/-- `RESET_VALUE(PSC)`: default 0 (R7, R42; log 6). -/
def resetPsc : Half := 0#16

/-- `RESET_VALUE(ARR)`: default 0 (R7, R43, I9; log 6). -/
def resetArr : Half := 0#16

/-- `RESET_VALUE(CCRi)`: default 0 (R7, R44; log 6). -/
def resetCcr : Channel → Half
  | .ch1 => 0#16
  | .ch2 => 0#16
  | .ch3 => 0#16
  | .ch4 => 0#16

/-- `TIMER_BASE`: OPEN (R7, R86), so a constant with no body (log 13). Its width is given nowhere; 32
bits are the model's choice (DESIGN CHOICE, log 18). -/
opaque timerBase : Word

end Config

end Sys2Proof
end

