-- ==== Sys2Proof/Syntax.lean ====
section
/-! DEFINITION. The block's instruction set: the seven commands of R102, one constructor for each row
of spec/opcode_table.json, with the operands of R103 and R106. -/

namespace Sys2Proof

/-- A command of the command port (R102). -/
inductive Instr where
  /-- `resolve`: operands on the operand ports (R140). -/
  | resolve
  /-- `init <mask>`: bit `i-1` of the mask binds channel `i` (R106, R160). -/
  | init (mask : BitVec 4)
  /-- `enable ch<n>` (R195). -/
  | enable (ch : Channel)
  /-- `disable ch<n>` (R198). -/
  | disable (ch : Channel)
  /-- `get_duty ch<n>` (R201). -/
  | getDuty (ch : Channel)
  /-- `set_duty ch<n>, <value>`: every 16-bit value is legal (R106, R205). -/
  | setDuty (ch : Channel) (value : Half)
  /-- `get_max_duty ch<n>` (R210). -/
  | getMaxDuty (ch : Channel)
deriving DecidableEq, Repr

end Sys2Proof
end

