-- ==== Sys2Proof/WellFormed.lean ====
section
/-! DEFINITION. What a command may say. A source line of R115 carries plain numbers, which may not
fit their fields; `AsmLine.wellFormed` is the check R115 gives the assembler. `Instr`'s operands
carry their ranges in their types, so an `Instr` is well-formed when the line it is written as is. -/

namespace Sys2Proof

/-- One line of R115's syntax, its numbers not checked yet. -/
inductive AsmLine where
  /-- `resolve` -/
  | resolve
  /-- `init <mask>` -/
  | init (mask : Nat)
  /-- `enable ch<n>` -/
  | enable (n : Nat)
  /-- `disable ch<n>` -/
  | disable (n : Nat)
  /-- `get_duty ch<n>` -/
  | getDuty (n : Nat)
  /-- `set_duty ch<n>, <value>` -/
  | setDuty (n value : Nat)
  /-- `get_max_duty ch<n>` -/
  | getMaxDuty (n : Nat)
  /-- `.ports clk=<hz>, freq=<hz>`: emits no word, stands for driving the two ports. -/
  | ports (clk freq : Nat)
deriving DecidableEq, Repr

/-- The channel a number in 1..4 names (R103); no other number names one. -/
def Channel.ofNumber : Nat → Option Channel
  | 1 => some .ch1
  | 2 => some .ch2
  | 3 => some .ch3
  | 4 => some .ch4
  | _ => none

/-- A channel's number, 1 to 4 (R103). -/
def Channel.number : Channel → Nat
  | .ch1 => 1
  | .ch2 => 2
  | .ch3 => 3
  | .ch4 => 4

/-- R115: a channel number in 1..4, a mask not above 0b1111, a compare value in 0..65535, port
values that fit the ports. -/
def AsmLine.wellFormed : AsmLine → Bool
  | .resolve => true
  | .init mask => decide (mask ≤ 15)
  | .enable n => (Channel.ofNumber n).isSome
  | .disable n => (Channel.ofNumber n).isSome
  | .getDuty n => (Channel.ofNumber n).isSome
  | .setDuty n value => (Channel.ofNumber n).isSome && decide (value < 2 ^ 16)
  | .getMaxDuty n => (Channel.ofNumber n).isSome
  | .ports clk freq => decide (clk < 2 ^ Config.operandWidth) && decide (freq < 2 ^ Config.operandWidth)

/-- The line a command is written as (R115). -/
def Instr.toLine : Instr → AsmLine
  | .resolve => .resolve
  | .init mask => .init mask.toNat
  | .enable ch => .enable ch.number
  | .disable ch => .disable ch.number
  | .getDuty ch => .getDuty ch.number
  | .setDuty ch value => .setDuty ch.number value.toNat
  | .getMaxDuty ch => .getMaxDuty ch.number

/-- A command is well-formed when the line it is written as is. -/
abbrev Instr.WellFormed (i : Instr) : Prop := i.toLine.wellFormed = true

end Sys2Proof
end

