-- ==== Sys2Proof/Decode.lean ====
section
/-! DEFINITION. The command word (R101), the decoder (R112), total on every 32-bit word and naming why
a word is illegal (R107), the encoder (R113) and the rows of spec/opcode_table.json. The encoding is
the spec's own choice (D2), not the source's. -/

namespace Sys2Proof

/-- `OP`, bits 31:28 (R101). -/
def opField (w : Word) : BitVec 4 := w.extractLsb' 28 4

/-- `CH`, bits 27:26 (R101). -/
def chField (w : Word) : BitVec 2 := w.extractLsb' 26 2

/-- `RSV`, bits 25:16 (R101). -/
def rsvField (w : Word) : BitVec 10 := w.extractLsb' 16 10

/-- `DATA`, bits 15:0 (R101). -/
def dataField (w : Word) : Half := w.extractLsb' 0 16

/-- The `CH` field that names a channel: its number minus one (R101). -/
def Channel.field : Channel → BitVec 2
  | .ch1 => 0
  | .ch2 => 1
  | .ch3 => 2
  | .ch4 => 3

/-- The channel a `CH` field names: the field plus one (R103). -/
def Channel.ofField (f : BitVec 2) : Channel :=
  match f.toNat with
  | 0 => .ch1
  | 1 => .ch2
  | 2 => .ch3
  | _ => .ch4

/-- The bit of a channel mask that stands for a channel: `i - 1` (R32, R106). -/
def Channel.maskBit : Channel → Nat
  | .ch1 => 0
  | .ch2 => 1
  | .ch3 => 2
  | .ch4 => 3

/-- Why a word is illegal (R107, R108). -/
inductive IllegalReason where
  /-- `RSV` is not zero. -/
  | reservedBits
  /-- `OP` is 0x0 or 0x8 to 0xF. -/
  | reservedOpcode
  /-- `CH` is not zero in a `resolve` or `init`. -/
  | channelNotZero
  /-- `DATA` has a bit its row requires zero. -/
  | dataNotZero
deriving DecidableEq, Repr

/-- What a word decodes to. -/
inductive Decoded where
  | command (i : Instr)
  | illegal (why : IllegalReason)
deriving DecidableEq, Repr

/-- The command, when `DATA` is zero as its row requires. -/
def withDataZero (w : Word) (i : Instr) : Decoded :=
  if dataField w = 0 then .command i else .illegal .dataNotZero

/-- The decoder (R112). -/
def decode (w : Word) : Decoded :=
  if rsvField w ≠ 0 then .illegal .reservedBits
  else match (opField w).toNat with
    | 1 => if chField w ≠ 0 then .illegal .channelNotZero else withDataZero w .resolve
    | 2 =>
      if chField w ≠ 0 then .illegal .channelNotZero
      else if (dataField w).extractLsb' 4 12 ≠ 0 then .illegal .dataNotZero
      else .command (.init ((dataField w).extractLsb' 0 4))
    | 3 => withDataZero w (.enable (Channel.ofField (chField w)))
    | 4 => withDataZero w (.disable (Channel.ofField (chField w)))
    | 5 => withDataZero w (.getDuty (Channel.ofField (chField w)))
    | 6 => .command (.setDuty (Channel.ofField (chField w)) (dataField w))
    | 7 => withDataZero w (.getMaxDuty (Channel.ofField (chField w)))
    | _ => .illegal .reservedOpcode

/-- The instruction of a decoded word, where there is one. -/
def Decoded.instr? : Decoded → Option Instr
  | .command i => some i
  | .illegal _ => none

/-- The decoder on a table row's bits: every command is exactly one 32-bit word (R110), so the bits
above `nbits` are zero and a longer instruction does not exist. -/
def decodeTableWord (nbits w : Nat) : Option Instr :=
  if nbits ≤ 32 then (decode (BitVec.ofNat 32 (w % 2 ^ nbits))).instr? else none

/-- `enc(op, ch, data)` of R113; channel 1 stands for `CH = 0`. -/
def enc (op : BitVec 4) (ch : Channel) (data : Half) : Word :=
  (op.setWidth 32 <<< 28) ||| (ch.field.setWidth 32 <<< 26) ||| data.setWidth 32

/-- The word of a command (R102, R113). -/
def encode : Instr → Word
  | .resolve => enc 0x1 .ch1 0
  | .init mask => enc 0x2 .ch1 (mask.setWidth 16)
  | .enable ch => enc 0x3 ch 0
  | .disable ch => enc 0x4 ch 0
  | .getDuty ch => enc 0x5 ch 0
  | .setDuty ch value => enc 0x6 ch value
  | .getMaxDuty ch => enc 0x7 ch 0

/-- A row of spec/opcode_table.json. -/
structure OpcodeRow where
  mnemonic : String
  matchWord : Word
  mask : Word
deriving DecidableEq, Repr

/-- The rows of spec/opcode_table.json, in its order. -/
def opcodeTable : List OpcodeRow :=
  [ ⟨"resolve", 0x10000000, 0xFFFFFFFF⟩,
    ⟨"init", 0x20000000, 0xFFFFFFF0⟩,
    ⟨"enable", 0x30000000, 0xF3FFFFFF⟩,
    ⟨"disable", 0x40000000, 0xF3FFFFFF⟩,
    ⟨"get_duty", 0x50000000, 0xF3FFFFFF⟩,
    ⟨"set_duty", 0x60000000, 0xF3FF0000⟩,
    ⟨"get_max_duty", 0x70000000, 0xF3FFFFFF⟩ ]

/-- R107: a row covers a word when `(CMD & mask) = match`. -/
def OpcodeRow.covers (r : OpcodeRow) (w : Word) : Bool := w &&& r.mask == r.matchWord

/-- A command's mnemonic in the table (R102). -/
def Instr.mnemonic : Instr → String
  | .resolve => "resolve"
  | .init _ => "init"
  | .enable _ => "enable"
  | .disable _ => "disable"
  | .getDuty _ => "get_duty"
  | .setDuty _ _ => "set_duty"
  | .getMaxDuty _ => "get_max_duty"

end Sys2Proof
end

