-- ==== Sys2Proof/Machine/State.lean ====
section
/-! DEFINITION. The block's state (10_state.md), its state at power-on reset (R54), and the reasons the
model gives for stopping. Plain data throughout. -/

namespace Sys2Proof.Machine

/-- The error codes of R260, that is every status code but `OK` and `FAULTED`. These are the codes
R262 and R263 store as the reason of a faulted block. -/
inductive ErrorCode where
  /-- CONFIG_INVALID: `target_freq = 0` or `target_freq > clock_rate` (R131). -/
  | configInvalid
  /-- CONFIG_IMPOSSIBLE: the prescaler does not fit in 16 bits (R133). -/
  | configImpossible
  /-- RESOURCE_CONFLICT: second INIT, unsupported set, unbound channel (R161, R190). -/
  | resourceConflict
  /-- NOT_INITIALISED: channel command in UNCONFIGURED (R190). -/
  | notInitialised
  /-- ILLEGAL_COMMAND: an illegal word (R108). -/
  | illegalCommand
deriving DecidableEq, Repr

/-- What `STATUS` says (R260). Code 7 is never produced (I11), so it has no name here. -/
inductive Status where
  | ok
  | error (e : ErrorCode)
  | faulted
deriving DecidableEq, Repr

/-- The lifecycle (R30). -/
inductive Life where
  /-- No INIT has completed. -/
  | unconfigured
  /-- INIT has completed. -/
  | running
  /-- A fault or refusal occurred; `reason` keeps the first error's code (R264; log 11). -/
  | faulted (reason : ErrorCode)
deriving DecidableEq, Repr

/-- The response after a command: `STATUS` and `RESULT` (R105). -/
structure Response where
  status : Status
  result : Word
deriving DecidableEq, Repr

/-- One 16-bit value per channel: the compare registers `CCR[1..4]` (R44) or their shadow copies. -/
structure CompareFile where
  ch1 : Half
  ch2 : Half
  ch3 : Half
  ch4 : Half
deriving DecidableEq, Repr

/-- One move of one of the two agents (R3). -/
inductive Move where
  /-- The host presents a command word (R100). -/
  | command (w : Word)
  /-- The host drives the operand ports `CLK_RATE` and `TARGET_FREQ` (R104, R297). -/
  | ports (clk freq : BitVec Config.operandWidth)
  /-- The counter agent's step, one input-clock cycle (R230). -/
  | tick
deriving DecidableEq, Repr

/-- The block and what stands at its ports. -/
structure State where
  /-- The lifecycle `S.life` (R30). -/
  life : Life
  /-- The bound channels `S.chset`; bit `i-1` is channel `i` (R32). -/
  chset : BitVec 4
  /-- `CR1` (R37). -/
  cr1 : Word
  /-- `CCMR1` (R38). -/
  ccmr1 : Word
  /-- `CCMR2` (R39). -/
  ccmr2 : Word
  /-- `CCER` (R41). -/
  ccer : Word
  /-- `BDTR` (R47). -/
  bdtr : Word
  /-- `PSC` (R42). -/
  psc : Half
  /-- `ARR` (R43). -/
  arr : Half
  /-- `CCR1` to `CCR4` (R44). -/
  ccr : CompareFile
  /-- `PSC_sh`, the prescaler in use (R45). -/
  pscSh : Half
  /-- `ARR_sh`, the period in use (R45). -/
  arrSh : Half
  /-- `CCR_sh[1..4]`, the compare values in use (R45). -/
  ccrSh : CompareFile
  /-- `CNT` (R49). -/
  cnt : Half
  /-- `PSCNT` (R49). -/
  pscnt : Half
  /-- What the host drives on `CLK_RATE` (R104). -/
  clkRate : BitVec Config.operandWidth
  /-- What the host drives on `TARGET_FREQ` (R104). -/
  targetFreq : BitVec Config.operandWidth
  /-- `STATUS` and `RESULT` of the last command answered; none before the first (R105; log 4). -/
  response : Option Response
  /-- The model's own field, not the block's: the moves the two agents make next, first move
  first. When it is empty the host is silent and the counter ticks (R34, R91; log 1). -/
  schedule : List Move
deriving DecidableEq, Repr

/-- Why the model stops. No step stops: every error the spec describes is a next state. Only the
bus view of Machine/RegisterBlock.lean, which the spec forbids the host (R81), answers with one. -/
inductive Fault where
  /-- Raised by the bus view for an offset at which R86 maps no register. Safe: the spec gives such
  an access no meaning. -/
  | noRegister
deriving DecidableEq, Repr

/-- Why the model gives an access or an instruction no meaning. -/
inductive Refusal where
  /-- An instruction without a meaning; no arm of exec answers with it. Safe. -/
  | notModelled (mnemonic : String)
  /-- Raised by the bus view for an access that is not an aligned 32-bit word, as R85 says; aligned is
  the offset from `TIMER_BASE` (log 19). Safe for a word-aligned base. -/
  | notAnAlignedWord
  /-- Raised by the bus view for a register that R86 maps but marks as not in scope. Safe. -/
  | registerOutOfScope
  /-- Raised by the bus view for CNT, which R49 makes observable through the outputs only. Safe. -/
  | counterNotReadable
deriving DecidableEq, Repr

/-- The compare registers' reset values (R44). -/
def CompareFile.reset : CompareFile :=
  ⟨Config.resetCcr .ch1, Config.resetCcr .ch2, Config.resetCcr .ch3, Config.resetCcr .ch4⟩

/-- The state at power-on reset (R54, R290). The operand ports' values, the empty response and the
empty schedule are the model's choice (log 1, 3, 4). -/
def State.reset : State where
  life := .unconfigured
  chset := 0b0000#4
  cr1 := Config.resetWord .cr1
  ccmr1 := Config.resetWord .ccmr1
  ccmr2 := Config.resetWord .ccmr2
  ccer := Config.resetWord .ccer
  bdtr := Config.resetWord .bdtr
  psc := Config.resetPsc
  arr := Config.resetArr
  ccr := CompareFile.reset
  pscSh := Config.resetPsc
  arrSh := Config.resetArr
  ccrSh := CompareFile.reset
  cnt := 0#16
  pscnt := 0#16
  clkRate := 0
  targetFreq := 0
  response := none
  schedule := []

end Sys2Proof.Machine
end

