-- ==== Sys2Proof/Machine/Flags.lean ====
section
/-! DEFINITION. The block has no status flags and no condition codes (R35): what an instruction reports
is a status code. This file gives the codes their numbers and says which lifecycle states refuse
every word. -/

namespace Sys2Proof.Machine

/-- The error codes' numbers (R260). -/
def ErrorCode.code : ErrorCode → BitVec 3
  | .configInvalid => 1
  | .configImpossible => 2
  | .resourceConflict => 3
  | .notInitialised => 4
  | .illegalCommand => 5

/-- The 3 bits on the status port (R105, R260). -/
def Status.code : Status → BitVec 3
  | .ok => 0
  | .error e => e.code
  | .faulted => 6

/-- Whether the block is in `FAULTED(_)` (R30, R264). -/
def Life.isFaulted : Life → Bool
  | .unconfigured => false
  | .running => false
  | .faulted _ => true

end Sys2Proof.Machine
end

