-- ==== Sys2Proof/Machine/Operands.lean ====
section
/-! DEFINITION. The operands a command's rule names: bit fields of the registers with their default
positions (R37 to R47), the channel descriptor table (R51), and the registers and compare
values of one channel. -/

namespace Sys2Proof.Machine

/-- A named field of a register that is stored as a word: bits `lo` to `lo + len - 1` (R8). -/
structure BitField where
  reg : WordReg
  lo : Nat
  len : Nat
deriving DecidableEq, Repr

/-- The ones in bits `lo` to `lo + len - 1`. -/
def fieldMask (lo len : Nat) : Word := (BitVec.allOnes len).setWidth 32 <<< lo

/-- `v[lo+len-1 : lo]` of a word, read as an unsigned number (R8). -/
def getField (w : Word) (lo len : Nat) : Word := (w >>> lo) &&& fieldMask 0 len

/-- A word with one field replaced and every other bit kept (R83). -/
def setField (w : Word) (lo len : Nat) (v : Word) : Word :=
  (w &&& ~~~ fieldMask lo len) ||| ((v <<< lo) &&& fieldMask lo len)

/-- `CR1.CEN` (R37). -/
def BitField.cen : BitField := ⟨.cr1, 0, 1⟩

/-- `CR1.ARPE` (R37). -/
def BitField.arpe : BitField := ⟨.cr1, 7, 1⟩

/-- `BDTR.OSSR` (R47). -/
def BitField.ossr : BitField := ⟨.bdtr, 11, 1⟩

/-- `BDTR.MOE` (R47). -/
def BitField.moe : BitField := ⟨.bdtr, 15, 1⟩

/-- The mode field `OCM(i)` (R51; positions R38, R39). -/
def BitField.ocm : Channel → BitField
  | .ch1 => ⟨.ccmr1, 4, 3⟩
  | .ch2 => ⟨.ccmr1, 12, 3⟩
  | .ch3 => ⟨.ccmr2, 4, 3⟩
  | .ch4 => ⟨.ccmr2, 12, 3⟩

/-- The preload bit `OCPE(i)` (R51; positions R38, R39). -/
def BitField.ocpe : Channel → BitField
  | .ch1 => ⟨.ccmr1, 3, 1⟩
  | .ch2 => ⟨.ccmr1, 11, 1⟩
  | .ch3 => ⟨.ccmr2, 3, 1⟩
  | .ch4 => ⟨.ccmr2, 11, 1⟩

/-- The enable bit `CCE(i)` (R51; positions R41). -/
def BitField.cce : Channel → BitField
  | .ch1 => ⟨.ccer, 0, 1⟩
  | .ch2 => ⟨.ccer, 4, 1⟩
  | .ch3 => ⟨.ccer, 8, 1⟩
  | .ch4 => ⟨.ccer, 12, 1⟩

/-- The complementary bit `CCNE(i)`, which channel 4 does not have: `COMPL_CH` is {1, 2, 3}
(R7, R51; positions R41). -/
def BitField.ccne : Channel → Option BitField
  | .ch1 => some ⟨.ccer, 2, 1⟩
  | .ch2 => some ⟨.ccer, 6, 1⟩
  | .ch3 => some ⟨.ccer, 10, 1⟩
  | .ch4 => none

/-- The bits of each word register that R37, R38, R39, R41 and R47 name; R48 governs the others. -/
def namedBits : WordReg → Word
  | .cr1 => 0x00000081
  | .ccmr1 => 0x00007878
  | .ccmr2 => 0x00007878
  | .ccer => 0x00001555
  | .bdtr => 0x00008800

/-- What a register write may name: a bit field, a 16-bit register, or `EGR.UG`. -/
inductive RegField where
  | bits (f : BitField)
  | psc
  | arr
  | ccr (ch : Channel)
  | ug
deriving DecidableEq, Repr

/-- One channel's value. -/
def CompareFile.get (f : CompareFile) : Channel → Half
  | .ch1 => f.ch1
  | .ch2 => f.ch2
  | .ch3 => f.ch3
  | .ch4 => f.ch4

/-- The file with one channel's value replaced; no channel's register is another's (R44). -/
def CompareFile.set (f : CompareFile) (ch : Channel) (v : Half) : CompareFile :=
  match ch with
  | .ch1 => { f with ch1 := v }
  | .ch2 => { f with ch2 := v }
  | .ch3 => { f with ch3 := v }
  | .ch4 => { f with ch4 := v }

/-- A word register's value. -/
def State.word (s : State) : WordReg → Word
  | .cr1 => s.cr1
  | .ccmr1 => s.ccmr1
  | .ccmr2 => s.ccmr2
  | .ccer => s.ccer
  | .bdtr => s.bdtr

/-- The state with one word register replaced. -/
def State.setWord (s : State) (r : WordReg) (w : Word) : State :=
  match r with
  | .cr1 => { s with cr1 := w }
  | .ccmr1 => { s with ccmr1 := w }
  | .ccmr2 => { s with ccmr2 := w }
  | .ccer => { s with ccer := w }
  | .bdtr => { s with bdtr := w }

/-- `S.R.F`: a named field's value (R10). -/
def State.field (s : State) (f : BitField) : Word := getField (s.word f.reg) f.lo f.len

/-- The state with one named field replaced, every other field of its register kept (R10). -/
def State.setFieldTo (s : State) (f : BitField) (v : Word) : State :=
  s.setWord f.reg (setField (s.word f.reg) f.lo f.len v)

/-- Whether channel `i` is bound: `chset[i-1] = 1` (R32). -/
def State.bound (s : State) (ch : Channel) : Bool := s.chset.getLsbD ch.maskBit

/-- The four channels in ascending order (R11). -/
def channels : List Channel := [.ch1, .ch2, .ch3, .ch4]

end Sys2Proof.Machine
end

