-- ==== Sys2Proof/Machine/Ops.lean ====
section
/-! DEFINITION. The named operations every rule is written in (R10): the register transactions with
their shadow copies and side effect (R45, R83, R87), the update event (R233, R234), the response
(R105), and the one operation by which a command ends in an error (R262, R263) or is answered in a
faulted block (R264). The block has no return from an error (R268); only power-on reset leaves the
faulted state (R290). -/

namespace Sys2Proof.Machine

/-- `UpdateEvent()`: every shadow copy is loaded from its register (R233). -/
def updateEvent (s : State) : State :=
  { s with pscSh := s.psc, arrSh := s.arr, ccrSh := s.ccr }

/-- The forced update: `UpdateEvent()`, then `CNT` and `PSCNT` are cleared (R234). -/
def forcedUpdate (s : State) : State :=
  { updateEvent s with cnt := 0#16, pscnt := 0#16 }

/-- `RegRead(R)`: the value last written, as the 32-bit word of the map; the 16-bit registers read 0
in bits 31:16 (R85), `EGR` reads 0 (R46). No side effect (R83, R87). -/
def regRead (r : Reg) (s : State) : Word :=
  match r with
  | .word r => s.word r
  | .psc => s.psc.setWidth 32
  | .arr => s.arr.setWidth 32
  | .egr => 0#32
  | .ccr ch => (s.ccr.get ch).setWidth 32

/-- `RegWrite(R.F, v)` (R83). Bits of `v` above the field's width are ignored (R85). A write of
`PSC` is buffered; one of `ARR` or `CCR[i]` reaches the shadow copy at once only when its preload
bit is 0 (R45); a write of `UG = 1` forces an update event and one of 0 does nothing (R46). -/
def regWrite (f : RegField) (v : Word) (s : State) : State :=
  match f with
  | .bits f => s.setFieldTo f v
  | .psc => { s with psc := v.setWidth 16 }
  | .arr =>
    if s.field .arpe = 0 then { s with arr := v.setWidth 16, arrSh := v.setWidth 16 }
    else { s with arr := v.setWidth 16 }
  | .ccr ch =>
    if s.field (.ocpe ch) = 0 then
      { s with ccr := s.ccr.set ch (v.setWidth 16), ccrSh := s.ccrSh.set ch (v.setWidth 16) }
    else { s with ccr := s.ccr.set ch (v.setWidth 16) }
  | .ug => if v.getLsbD 0 then forcedUpdate s else s

/-- `respond(status, data)`: the response stands on the ports (R10, R105). -/
def respond (status : Status) (data : Word) (s : State) : State :=
  { s with response := some ⟨status, data⟩ }

/-- `raise Fault(e)` (R262): `S.life <- FAULTED(e)`, nothing else written, `RESULT = 0`. -/
def raiseFault (e : ErrorCode) (s : State) : State :=
  respond (.error e) 0#32 { s with life := .faulted e }

/-- `refuse(e)` (R263): the same effect as a fault. -/
def refuse (e : ErrorCode) (s : State) : State := raiseFault e s

/-- The first check of every command word: a faulted block answers FAULTED and changes nothing
(R264, R265). -/
def unlessFaulted (body : State → State) (s : State) : State :=
  if s.life.isFaulted then respond .faulted 0#32 s else body s

/-- An illegal command word: FAULTED is reported first, then ILLEGAL_COMMAND (R108, R265). -/
def illegalCommand (s : State) : State := unlessFaulted (refuse .illegalCommand) s

/-- Power-on reset (R290): the block takes the values of R54. The host's moves and what it drives on
the operand ports are the host's and stay. It is no move of a run (R298; log 10). -/
def powerOnReset (s : State) : State :=
  { State.reset with clkRate := s.clkRate, targetFreq := s.targetFreq, schedule := s.schedule }

/-- The host drives the operand ports (R104, R297). -/
def drivePorts (clk freq : BitVec Config.operandWidth) (s : State) : State :=
  { s with clkRate := clk, targetFreq := freq }

end Sys2Proof.Machine
end

