-- ==== Sys2Proof/Machine/Counter.lean ====
section
/-! DEFINITION. The counter agent's step (R230 to R235). -/

namespace Sys2Proof.Machine

/-- One prescaled count (R230): the wrap at `ARR_sh` is the update event; above it the counter goes on
modulo 2^16 (D24). -/
def count (s : State) : State :=
  if s.cnt = s.arrSh then updateEvent { s with cnt := 0#16 }
  else { s with cnt := s.cnt + 1 }

/-- `TICK` (R230). -/
def tick (s : State) : State :=
  if s.field .cen = 0 then s
  else if s.pscnt < s.pscSh then { s with pscnt := s.pscnt + 1 }
  else count { s with pscnt := 0#16 }

/-- `n` TICKs in a row. -/
def ticks : Nat → State → State
  | 0, s => s
  | n + 1, s => ticks n (tick s)

end Sys2Proof.Machine
end

