-- ==== Sys2Proof/Machine/ChannelCommands.lean ====
section
/-! DEFINITION. The five channel commands (R190 to R212). Each runs `ChannelCheck` and then makes the
register transactions of its rule on its own channel's fields (R191). -/

namespace Sys2Proof.Machine

/-- `ChannelCheck(ch)` (R190), after the FAULTED check (R265). -/
def channelCheck (ch : Channel) (body : State → State) (s : State) : State :=
  if s.life = .unconfigured then refuse .notInitialised s
  else if s.bound ch then body s
  else refuse .resourceConflict s

/-- Every channel command: FAULTED check, channel check, then its own effect (R190, R265). -/
def channelCommand (ch : Channel) (body : State → State) (s : State) : State :=
  unlessFaulted (channelCheck ch body) s

/-- `RegWrite(CCNE(ch), 0)` where the channel has the bit (R195, R197). -/
def clearCcne (ch : Channel) (s : State) : State :=
  match BitField.ccne ch with
  | some f => regWrite (.bits f) 0#32 s
  | none => s

/-- ENABLE's effect (R195). -/
def enableEffect (ch : Channel) (s : State) : State :=
  respond .ok 0#32 (clearCcne ch (regWrite (.bits (.cce ch)) 1#32 s))

/-- DISABLE's effect (R198). -/
def disableEffect (ch : Channel) (s : State) : State :=
  respond .ok 0#32 (regWrite (.bits (.cce ch)) 0#32 s)

/-- GET_DUTY's effect: the value last written, not the one in use (R201, R202). -/
def getDutyEffect (ch : Channel) (s : State) : State :=
  respond .ok (regRead (.ccr ch) s) s

/-- SET_DUTY's effect; the write reaches `CCR_sh[ch]` at once only when `OCPE(ch) = 0`
(R45, R205). -/
def setDutyEffect (ch : Channel) (value : Half) (s : State) : State :=
  respond .ok 0#32 (regWrite (.ccr ch) (value.setWidth 32) s)

/-- GET_MAX_DUTY's effect (R210). -/
def getMaxDutyEffect (s : State) : State :=
  respond .ok (regRead .arr s) s

/-- `enable ch<n>` (R195). -/
def execEnable (ch : Channel) (s : State) : Host.Outcome State Fault Refusal :=
  .next (channelCommand ch (enableEffect ch) s)

/-- `disable ch<n>` (R198). -/
def execDisable (ch : Channel) (s : State) : Host.Outcome State Fault Refusal :=
  .next (channelCommand ch (disableEffect ch) s)

/-- `get_duty ch<n>` (R201). -/
def execGetDuty (ch : Channel) (s : State) : Host.Outcome State Fault Refusal :=
  .next (channelCommand ch (getDutyEffect ch) s)

/-- `set_duty ch<n>, <value>` (R205). -/
def execSetDuty (ch : Channel) (value : Half) (s : State) : Host.Outcome State Fault Refusal :=
  .next (channelCommand ch (setDutyEffect ch value) s)

/-- `get_max_duty ch<n>` (R210). -/
def execGetMaxDuty (ch : Channel) (s : State) : Host.Outcome State Fault Refusal :=
  .next (channelCommand ch getMaxDutyEffect s)

end Sys2Proof.Machine
end

