-- ==== Sys2Proof/Machine/Resolver.lean ====
section
/-! DEFINITION. The frequency resolver (R130 to R139) and the RESOLVE command (R140). The resolver works
on natural numbers (R9), so it is the spec's function at every operand width `W`. -/

namespace Sys2Proof.Machine

/-- What `resolve` returns: `OK(psc, arr)` or `ERR(code)` (R130). -/
inductive Resolution where
  | ok (psc arr : Half)
  | err (e : ErrorCode)
deriving DecidableEq, Repr

/-- `fits_16(v)` (R9). -/
abbrev fits16 (v : Nat) : Prop := v < 2 ^ 16

/-- The part of `resolve` after the operand checks, on `ticks` (R132 to R134). Both tests of R134
stand although they never fire (R135). -/
def resolveTicks (ticks : Nat) : Resolution :=
  let q := ticks / Config.pscSpan
  if ¬ fits16 q then .err .configImpossible
  else
    let t2 := ticks / (q + 1)
    if t2 = 0 then .err .configInvalid
    else if ¬ fits16 (t2 - 1) then .err .configImpossible
    else .ok (BitVec.ofNat 16 q) (BitVec.ofNat 16 (t2 - 1))

/-- `resolve(clock_rate, target_freq)` (R130, R131). -/
def resolve (clockRate targetFreq : Nat) : Resolution :=
  if targetFreq = 0 then .err .configInvalid
  else if targetFreq > clockRate then .err .configInvalid
  else resolveTicks (clockRate / targetFreq)

/-- The response of RESOLVE: `RESULT[31:16]` the prescaler, `RESULT[15:0]` the reload; an error is
reported and is no fault (R111, R140). -/
def resolveResponse (clockRate targetFreq : Nat) (s : State) : State :=
  match resolve clockRate targetFreq with
  | .ok psc arr => respond .ok (psc ++ arr) s
  | .err e => respond (.error e) 0#32 s

/-- `resolve` (R140). -/
def execResolve (s : State) : Host.Outcome State Fault Refusal :=
  .next (unlessFaulted (fun s => resolveResponse s.clkRate.toNat s.targetFreq.toNat s) s)

end Sys2Proof.Machine
end

