-- ==== Sys2Proof/Machine/Initializer.lean ====
section
/-! DEFINITION. The timer initializer (R160 to R175). `resolve` comes before step 1, so a failed INIT
writes nothing (R162, C4). -/

namespace Sys2Proof.Machine

/-- `ResetTimer()`, step 1 (R163): every timer register and shadow copy takes its reset value, `CNT`
and `PSCNT` are cleared; `life` and `chset` are not reset (R291). -/
def resetTimer (s : State) : State :=
  { s with
    cr1 := Config.resetWord .cr1
    ccmr1 := Config.resetWord .ccmr1
    ccmr2 := Config.resetWord .ccmr2
    ccer := Config.resetWord .ccer
    bdtr := Config.resetWord .bdtr
    psc := Config.resetPsc
    arr := Config.resetArr
    ccr := CompareFile.reset
    pscSh := Config.resetPsc
    arrSh := Config.resetArr
    ccrSh := CompareFile.reset
    cnt := 0#16
    pscnt := 0#16 }

/-- Step 3 for one channel (R165): a channel in the mask is put in PWM mode 1 with preload. -/
def initChannel (mask : BitVec 4) (s : State) (ch : Channel) : State :=
  if mask.getLsbD ch.maskBit then
    regWrite (.bits (.ocpe ch)) 1#32 (regWrite (.bits (.ocm ch)) Config.ocmPwm1 s)
  else s

/-- Steps 1 to 8 in order (R163 to R170). -/
def initWrites (mask : BitVec 4) (psc arr : Half) (s : State) : State :=
  let s := resetTimer s
  let s := regWrite (.bits .cen) 0#32 s
  let s := channels.foldl (initChannel mask) s
  let s := regWrite .psc (psc.setWidth 32) s
  let s := regWrite .arr (arr.setWidth 32) s
  let s := regWrite .ug 1#32 s
  let s := regWrite (.bits .arpe) 1#32 s
  let s := regWrite (.bits .ossr) 0#32 s
  let s := regWrite (.bits .moe) 1#32 s
  regWrite (.bits .cen) 1#32 s

/-- Step 9 (R171): the mask is the handle set and the answer; the block runs. -/
def handOver (mask : BitVec 4) (s : State) : State :=
  respond .ok (mask.setWidth 32) { s with chset := mask, life := .running }

/-- INIT after the FAULTED check, on operands of any width (R160 to R162). -/
def initWith (clockRate targetFreq : Nat) (mask : BitVec 4) (s : State) : State :=
  if s.life = .running then refuse .resourceConflict s
  else if mask ∈ Config.supportedSets then
    match resolve clockRate targetFreq with
    | .err e => raiseFault e s
    | .ok psc arr => handOver mask (initWrites mask psc arr s)
  else refuse .resourceConflict s

/-- `init <mask>` (R160). -/
def execInit (mask : BitVec 4) (s : State) : Host.Outcome State Fault Refusal :=
  .next (unlessFaulted (fun s => initWith s.clkRate.toNat s.targetFreq.toNat mask s) s)

end Sys2Proof.Machine
end

