-- ==== Sys2Proof/Machine/Dispatch.lean ====
section
/-! DEFINITION. One arm per command: the meaning exec gives it. -/

namespace Sys2Proof.Machine

def exec (i : Instr) (s : State) : Host.Outcome State Fault Refusal :=
  match i with
  | .resolve => Sys2Proof.Machine.execResolve s
  | .init mask => Sys2Proof.Machine.execInit mask s
  | .enable ch => Sys2Proof.Machine.execEnable ch s
  | .disable ch => Sys2Proof.Machine.execDisable ch s
  | .getDuty ch => Sys2Proof.Machine.execGetDuty ch s
  | .setDuty ch value => Sys2Proof.Machine.execSetDuty ch value s
  | .getMaxDuty ch => Sys2Proof.Machine.execGetMaxDuty ch s

end Sys2Proof.Machine
end

