-- ==== Sys2Proof/Machine/Port.lean ====
section
/-! DEFINITION. What one move of an agent does to the block (R3, R91): a command word is decoded and
executed as one atomic step (R90, R100), a port move drives the ports (R104), a TICK is R230. -/

namespace Sys2Proof.Machine

/-- The block takes one command word off the command port (R100, R108, R265). -/
def presentWord (w : Word) (s : State) : Host.Outcome State Fault Refusal :=
  match decode w with
  | .command i => exec i s
  | .illegal _ => .next (illegalCommand s)

/-- One move. -/
def performMove (m : Move) (s : State) : Host.Outcome State Fault Refusal :=
  match m with
  | .command w => presentWord w s
  | .ports clk freq => .next (drivePorts clk freq s)
  | .tick => .next (tick s)

/-- The move that is next, and the state with it taken off the schedule: when the schedule is empty
the host is silent and the counter ticks (log 1). -/
def nextMove (s : State) : Move × State :=
  match s.schedule with
  | [] => (.tick, s)
  | m :: rest => (m, { s with schedule := rest })

/-- The move by which the host presents a command word whose `nbits` low bits are `w` (R100). -/
def commandMove (nbits w : Nat) : Move := .command (BitVec.ofNat 32 (w % 2 ^ nbits))

end Sys2Proof.Machine
end

