-- ==== Sys2Proof/Machine/Step.lean ====
section
/-! DEFINITION. One step of the machine: the next move of the schedule is made (R91). -/

namespace Sys2Proof.Machine

/-- One step (R91, R298). -/
def step (s : State) : Host.Outcome State Fault Refusal :=
  performMove (nextMove s).1 (nextMove s).2

/-- The state in which the host presents this command word next (R100; log 2). -/
def State.withFetchWord (s : State) (nbits w : Nat) : State :=
  { s with schedule := commandMove nbits w :: s.schedule }

end Sys2Proof.Machine
end

