-- ==== Sys2Proof/Machine/Assembler.lean ====
section
/-! DEFINITION. The assembler of R115: from a line's characters to its parsed form, and from that to the
host move it stands for. A command line is the word it encodes to; `.ports` emits no word and is the
host driving the two ports. There are no pseudo-instructions (R116). -/

namespace Sys2Proof.Machine

/-- A line up to its comment. -/
def uncommented (line : List Char) : List Char := line.takeWhile (fun c => c != ';')

/-- A token that is being read, closed. -/
def closeToken (current : List Char) : List (List Char) := if current = [] then [] else [current]

/-- The tokens of a line: blanks part them, a comma is a token of its own. -/
def tokensFrom (current : List Char) : List Char → List (List Char)
  | [] => closeToken current
  | c :: rest =>
    if c = ' ' ∨ c = '\t' then closeToken current ++ tokensFrom [] rest
    else if c = ',' then closeToken current ++ [','] :: tokensFrom [] rest
    else tokensFrom (current ++ [c]) rest

/-- A digit's value; hexadecimal letters of both cases. -/
def digitValue (c : Char) : Option Nat :=
  if '0'.toNat ≤ c.toNat ∧ c.toNat ≤ '9'.toNat then some (c.toNat - '0'.toNat)
  else if 'a'.toNat ≤ c.toNat ∧ c.toNat ≤ 'f'.toNat then some (c.toNat - 'a'.toNat + 10)
  else if 'A'.toNat ≤ c.toNat ∧ c.toNat ≤ 'F'.toNat then some (c.toNat - 'A'.toNat + 10)
  else none

/-- Digits of a base, most significant first, after a value already read. -/
def digitsFrom (base value : Nat) : List Char → Option Nat
  | [] => some value
  | c :: rest =>
    match digitValue c with
    | some d => if d < base then digitsFrom base (base * value + d) rest else none
    | none => none

/-- One digit or more. -/
def digits (base : Nat) : List Char → Option Nat
  | [] => none
  | c :: rest => digitsFrom base 0 (c :: rest)

/-- A number: `0b` binary, `0x` hexadecimal, else decimal (R8, R115; log 15). -/
def number : List Char → Option Nat
  | '0' :: 'b' :: rest => digits 2 rest
  | '0' :: 'x' :: rest => digits 16 rest
  | cs => digits 10 cs

/-- The number in `ch<n>`. -/
def channelToken : List Char → Option Nat
  | 'c' :: 'h' :: rest => digits 10 rest
  | _ => none

/-- The number in `clk=<hz>`. -/
def clkToken : List Char → Option Nat
  | 'c' :: 'l' :: 'k' :: '=' :: rest => number rest
  | _ => none

/-- The number in `freq=<hz>`. -/
def freqToken : List Char → Option Nat
  | 'f' :: 'r' :: 'e' :: 'q' :: '=' :: rest => number rest
  | _ => none

/-- A line of one argument. -/
def parseOne (name arg : List Char) : Option AsmLine :=
  if name = ['i', 'n', 'i', 't'] then (number arg).map AsmLine.init
  else if name = ['e', 'n', 'a', 'b', 'l', 'e'] then (channelToken arg).map AsmLine.enable
  else if name = ['d', 'i', 's', 'a', 'b', 'l', 'e'] then (channelToken arg).map AsmLine.disable
  else if name = ['g', 'e', 't', '_', 'd', 'u', 't', 'y'] then (channelToken arg).map AsmLine.getDuty
  else if name = ['g', 'e', 't', '_', 'm', 'a', 'x', '_', 'd', 'u', 't', 'y'] then
    (channelToken arg).map AsmLine.getMaxDuty
  else none

/-- A line of two arguments parted by a comma. -/
def parseTwo (name arg arg' : List Char) : Option AsmLine :=
  if name = ['s', 'e', 't', '_', 'd', 'u', 't', 'y'] then
    match channelToken arg, number arg' with
    | some n, some value => some (.setDuty n value)
    | _, _ => none
  else if name = ['.', 'p', 'o', 'r', 't', 's'] then
    match clkToken arg, freqToken arg' with
    | some clk, some freq => some (.ports clk freq)
    | _, _ => none
  else none

/-- A source line (R115): a blank or comment line holds nothing, any other holds one command or
directive, or is no line of the syntax. -/
def parseLine (line : List Char) : Option (List AsmLine) :=
  match tokensFrom [] (uncommented line) with
  | [] => some []
  | [name] => if name = ['r', 'e', 's', 'o', 'l', 'v', 'e'] then some [.resolve] else none
  | [name, arg] => (parseOne name arg).map (fun l => [l])
  | [name, arg, comma, arg'] =>
    if comma = [','] then (parseTwo name arg arg').map (fun l => [l]) else none
  | _ => none

/-- A command on a channel number, rejected when the number names no channel. -/
def onChannel (n : Nat) (command : Channel → Instr) : Option Move :=
  (Channel.ofNumber n).map (fun ch => .command (encode (command ch)))

/-- The host move a well-formed line stands for; a value that does not fit its field is rejected
(R115). -/
def assembleLine (l : AsmLine) : Option Move :=
  if l.wellFormed then
    match l with
    | .resolve => some (.command (encode .resolve))
    | .init mask => some (.command (encode (.init (BitVec.ofNat 4 mask))))
    | .enable n => onChannel n .enable
    | .disable n => onChannel n .disable
    | .getDuty n => onChannel n .getDuty
    | .setDuty n value => onChannel n (fun ch => .setDuty ch (BitVec.ofNat 16 value))
    | .getMaxDuty n => onChannel n .getMaxDuty
    | .ports clk freq =>
      some (.ports (BitVec.ofNat Config.operandWidth clk) (BitVec.ofNat Config.operandWidth freq))
  else none

/-- The moves of a source text, none when a line is rejected (R115). -/
def assemble : List (List Char) → Option (List Move)
  | [] => some []
  | line :: rest =>
    match parseLine line, assemble rest with
    | some lines, some moves => (lines.mapM assembleLine).map (fun here => here ++ moves)
    | _, _ => none

end Sys2Proof.Machine
end

