-- ==== Sys2Proof/Machine/Outputs.lean ====
section
/-! DEFINITION. The PWM outputs, which are functions of the state (R50, R236, R237). Where the spec
leaves the reference level UNDETERMINED, the level is a draw over HIGH and LOW: the argument `draw`,
which nothing constrains (log 9). -/

namespace Sys2Proof.Machine

/-- A reference level. -/
inductive Level where
  | high
  | low
deriving DecidableEq, Repr

/-- What the timer does to a pin; `off` is "not driven by the timer", not a level (R50, R237). -/
inductive Drive where
  | high
  | low
  | off
deriving DecidableEq, Repr

/-- The other level. -/
def Level.inverse : Level → Level
  | .high => .low
  | .low => .high

/-- A driven pin shows the level. -/
def Level.drive : Level → Drive
  | .high => .high
  | .low => .low

/-- `OCREF[i]` (R236): in PWM mode 1 high while the counter is below the compare value in use;
in any other mode the draw. -/
def ocref (draw : Level) (ch : Channel) (s : State) : Level :=
  if s.field (.ocm ch) = Config.ocmPwm1 then
    if s.cnt < s.ccrSh.get ch then .high else .low
  else draw

/-- `OUT[i]` (R237). -/
def out (draw : Level) (ch : Channel) (s : State) : Drive :=
  if s.field .moe = 1 ∧ s.field (.cce ch) = 1 then (ocref draw ch s).drive else .off

/-- `OUTN[i]` (R237), for the channels that have a complementary bit; the others have no such output.
Dead-time is 0 (R47), so the inverse appears at once (log 16). -/
def outn (draw : Level) (ch : Channel) (s : State) : Option Drive :=
  match BitField.ccne ch with
  | none => none
  | some f =>
    some (if s.field .moe = 1 ∧ s.field f = 1 then (ocref draw ch s).inverse.drive else .off)

/-- Input-clock cycles in a period (R231). -/
def periodTicks (s : State) : Nat := (s.pscSh.toNat + 1) * (s.arrSh.toNat + 1)

/-- Counter counts of a period for which a channel with compare value `c` is high (R212). -/
def highCounts (c a : Nat) : Nat := min c (a + 1)

end Sys2Proof.Machine
end

