-- ==== Sys2Proof/Machine/RegisterBlock.lean ====
section
/-! DEFINITION. The register block as a bus would see it (R80, R84 to R86). The host does not address it
(R81) and no step uses it: it is a read-only view beside the machine (log 13). -/

namespace Sys2Proof.Machine

/-- A slot of the map of R86. -/
inductive Slot where
  /-- A register of the block. -/
  | held (r : Reg)
  /-- `CNT`, which no command accesses. -/
  | counter
  /-- A register marked "not in scope". -/
  | outOfScope
deriving DecidableEq, Repr

/-- A register's offset from `TIMER_BASE` (R86). -/
def regOffset : Reg → Nat
  | .word .cr1 => 0x00
  | .egr => 0x14
  | .word .ccmr1 => 0x18
  | .word .ccmr2 => 0x1C
  | .word .ccer => 0x20
  | .psc => 0x28
  | .arr => 0x2C
  | .ccr .ch1 => 0x34
  | .ccr .ch2 => 0x38
  | .ccr .ch3 => 0x3C
  | .ccr .ch4 => 0x40
  | .word .bdtr => 0x44

/-- The map of R86; an offset it does not list holds no register. -/
def slotAt : Nat → Option Slot
  | 0x00 => some (.held (.word .cr1))
  | 0x04 => some .outOfScope
  | 0x08 => some .outOfScope
  | 0x0C => some .outOfScope
  | 0x10 => some .outOfScope
  | 0x14 => some (.held .egr)
  | 0x18 => some (.held (.word .ccmr1))
  | 0x1C => some (.held (.word .ccmr2))
  | 0x20 => some (.held (.word .ccer))
  | 0x24 => some .counter
  | 0x28 => some (.held .psc)
  | 0x2C => some (.held .arr)
  | 0x30 => some .outOfScope
  | 0x34 => some (.held (.ccr .ch1))
  | 0x38 => some (.held (.ccr .ch2))
  | 0x3C => some (.held (.ccr .ch3))
  | 0x40 => some (.held (.ccr .ch4))
  | 0x44 => some (.held (.word .bdtr))
  | 0x48 => some .outOfScope
  | 0x4C => some .outOfScope
  | _ => none

/-- A bus read of `bytes` bytes at an offset: an aligned 32-bit word or nothing (R85). Alignment is of
the offset (DESIGN CHOICE, log 19). -/
def busReadAt (offset bytes : Nat) (s : State) : Host.Outcome Word Fault Refusal :=
  if bytes = 4 ∧ offset % 4 = 0 then
    match slotAt offset with
    | some (.held r) => .next (regRead r s)
    | some .counter => .refused .counterNotReadable
    | some .outOfScope => .refused .registerOutOfScope
    | none => .fault .noRegister
  else .refused .notAnAlignedWord

/-- A bus read at an address, for whatever `TIMER_BASE` is (R80, R86). The spec gives an address no
width: 32 bits, and the offset taken modulo 2^32, are the model's choice (DESIGN CHOICE, log 18).
It gives `TIMER_BASE` no alignment: that the offset must be aligned, not the address, is the model's
choice too, and the same thing for a word-aligned base (DESIGN CHOICE, log 19). -/
def busRead (address : Word) (bytes : Nat) (s : State) : Host.Outcome Word Fault Refusal :=
  busReadAt (address - Config.timerBase).toNat bytes s

/-- Byte `k` of a register mapped into a byte-addressed space: little-endian, bit 0 of the register
in the byte at its offset (R84). -/
def regByte (r : Reg) (k : Nat) (s : State) : Byte := (regRead r s).extractLsb' (8 * k) 8

end Sys2Proof.Machine
end

