-- ==== Sys2Proof/Safety.lean ====
section
/-! DEFINITION. The terms claims are stated in: runs and their results (R298), good runs, and the
properties of states the spec gives as invariants (R31, R48, R55, R236, R237). -/

namespace Sys2Proof

open Sys2Proof.Machine

/-- The response a step from `s` to `t` adds to the run: one for a command, none for another
move. -/
def answered (s t : State) : List Response :=
  match (nextMove s).1 with
  | .command _ => t.response.toList
  | .ports _ _ => []
  | .tick => []

/-- A run (R298): moves made one by one; its result is the list of responses and the last state. -/
inductive Run : State → List Response → State → Prop where
  | nil (s : State) : Run s [] s
  | cons {s t u : State} {rs : List Response} (first : step s = .next t) (rest : Run t rs u) :
      Run s (answered s t ++ rs) u

/-- A good run holds no fault and no refusal (R298); since `FAULTED` is never left, its last state
tells. A failed standalone RESOLVE is neither (R140). -/
def GoodRun (s : State) (rs : List Response) (t : State) : Prop :=
  Run s rs t ∧ t.life.isFaulted = false

/-- What a run may start from: power-on reset, with any moves of the two agents ahead. -/
def atReset (moves : List Move) : State := { State.reset with schedule := moves }

/-- The states runs from power-on reset reach. -/
def Reachable (t : State) : Prop := ∃ moves rs, Run (atReset moves) rs t

/-- R31: the changes of the lifecycle a step may make. -/
inductive LifeChange : Life → Life → Prop where
  | same (l : Life) : LifeChange l l
  | start : LifeChange .unconfigured .running
  | fail (e : ErrorCode) : LifeChange .unconfigured (.faulted e)
  | refuse (e : ErrorCode) : LifeChange .running (.faulted e)

/-- The channel a command names, where it names one (R103). -/
def Instr.channel? : Instr → Option Channel
  | .resolve => none
  | .init _ => none
  | .enable ch => some ch
  | .disable ch => some ch
  | .getDuty ch => some ch
  | .setDuty ch _ => some ch
  | .getMaxDuty ch => some ch

/-- An INIT of an unconfigured block for a supported set, whose operands `resolve` answers with the
error `e` (R162). -/
def InitResolveFails (w : Word) (s : State) (e : ErrorCode) : Prop :=
  s.life = .unconfigured ∧
  ∃ mask, mask ∈ Config.supportedSets ∧ decode w = .command (.init mask) ∧
    resolve s.clkRate.toNat s.targetFreq.toNat = .err e

/-- The causes for which a command word faults the block, by the code it reports: an INIT that fails
(R161, R162) or a refused command (R108, R190, R263). A failed RESOLVE is none of them (R140). -/
def FaultCause (w : Word) (s : State) : ErrorCode → Prop
  | .configInvalid => InitResolveFails w s .configInvalid
  | .configImpossible => InitResolveFails w s .configImpossible
  | .resourceConflict =>
    (∃ mask, decode w = .command (.init mask) ∧
      (s.life = .running ∨ (s.life = .unconfigured ∧ mask ∉ Config.supportedSets))) ∨
    (∃ i ch, decode w = .command i ∧ i.channel? = some ch ∧ s.life = .running ∧
      s.bound ch = false)
  | .notInitialised => s.life = .unconfigured ∧ ∃ i ch, decode w = .command i ∧ i.channel? = some ch
  | .illegalCommand => ∃ why, decode w = .illegal why

/-- R55: what holds while the block runs. -/
structure RunningInvariant (s : State) : Prop where
  cen : s.field .cen = 1
  arpe : s.field .arpe = 1
  pwm : ∀ ch, s.bound ch = true → s.field (.ocm ch) = Config.ocmPwm1 ∧ s.field (.ocpe ch) = 1
  ossr : s.field .ossr = 0
  moe : s.field .moe = 1
  psc : s.pscSh = s.psc
  arr : s.arrSh = s.arr
  pscnt : s.pscnt ≤ s.pscSh
  cnt : s.cnt ≤ s.arrSh

/-- R55 as an invariant of every state: it asks something of running states only. -/
def GoodWhileRunning (s : State) : Prop := s.life = .running → RunningInvariant s

/-- R48: in every word register the bits no rule names have their reset values. -/
def UnnamedBitsAtReset (s : State) : Prop :=
  ∀ r, s.word r &&& ~~~ namedBits r = Config.resetWord r &&& ~~~ namedBits r

/-- R237: no complementary output is enabled. -/
def ComplementaryOff (s : State) : Prop :=
  ∀ ch f, BitField.ccne ch = some f → s.field f = 0

/-- R236: a channel whose output is enabled is in PWM mode 1; a bound channel of a running block is,
so that `enable` keeps it. -/
def EnabledOnlyInPwmMode (s : State) : Prop :=
  (∀ ch, s.field (.cce ch) = 1 → s.field (.ocm ch) = Config.ocmPwm1) ∧
  (s.life = .running → ∀ ch, s.bound ch = true → s.field (.ocm ch) = Config.ocmPwm1)

/-- R190: a running block has a supported channel set. -/
def RunningSetSupported (s : State) : Prop :=
  s.life = .running → s.chset ∈ Config.supportedSets

/-- The last of a sequence of commands that is `enable ch` (true) or `disable ch` (false), where
there is one (R199). -/
def lastToggle (ch : Channel) : List Instr → Option Bool
  | [] => none
  | i :: rest =>
    match lastToggle ch rest with
    | some b => some b
    | none => if i = .enable ch then some true else if i = .disable ch then some false else none

/-- R54, R276: the counter of a block that no INIT has configured is stopped. -/
def StoppedWhenUnconfigured (s : State) : Prop := s.life = .unconfigured → s.field .cen = 0

/-- Two states show the same on every output, whatever is drawn for a level the spec leaves open
(R237, R238). -/
def SameOutputs (s t : State) : Prop :=
  ∀ draw ch, out draw ch t = out draw ch s ∧ outn draw ch t = outn draw ch s

/-- Two states that agree in everything a command can see of the block before INIT: all but the
timer registers, the shadow copies and the counter (R54). -/
def sameBeforeInit (s s' : State) : Prop :=
  s.life = s'.life ∧ s.chset = s'.chset ∧ s.clkRate = s'.clkRate ∧ s.targetFreq = s'.targetFreq ∧
  s.response = s'.response ∧ s.schedule = s'.schedule

end Sys2Proof
end

