-- ==== Sys2Proof/Certificates/Slice0/Obligations.lean ====
section
/-! DEFINITION. The statements for the provers, from the rules of spec/. A docstring names the rule or
the section a statement formalises; "derived" marks what the spec itself marks as derived. -/

open Sys2Proof Sys2Proof.Machine

/-! ## Encoding (30_encoding.md) -/

/-- Words of every command, and illegal ones, decode as 95_test_vectors.md V30 to V46 list. -/
def Obligations.SampleWordsDecode : Prop :=
  decode 0x10000000#32 = .command .resolve ∧
  decode 0x2000000F#32 = .command (.init 0b1111#4) ∧
  decode 0x20000000#32 = .command (.init 0b0000#4) ∧
  decode 0x3C000000#32 = .command (.enable .ch4) ∧
  decode 0x4C000000#32 = .command (.disable .ch4) ∧
  decode 0x54000000#32 = .command (.getDuty .ch2) ∧
  decode 0x6C00FFFF#32 = .command (.setDuty .ch4 65535#16) ∧
  decode 0x78000000#32 = .command (.getMaxDuty .ch3) ∧
  decode 0x00000000#32 = .illegal .reservedOpcode ∧
  decode 0x10000001#32 = .illegal .dataNotZero ∧
  decode 0x14000000#32 = .illegal .channelNotZero ∧
  decode 0x20000010#32 = .illegal .dataNotZero ∧
  decode 0x30010000#32 = .illegal .reservedBits ∧
  decode 0x30000001#32 = .illegal .dataNotZero ∧
  decode 0x6FFFFFFF#32 = .illegal .reservedBits ∧
  decode 0x80000000#32 = .illegal .reservedOpcode ∧
  decode 0xF3FFFFFF#32 = .illegal .reservedBits

/-- Decoding a command's word gives the command, at every value of every operand (R101, R112,
R113). -/
def Obligations.DecodeOfEncodeIsTheCommand : Prop :=
  ∀ i : Instr, decode (encode i) = .command i

/-- A word that decodes to a command is that command's only word (R101, R112, R113). -/
def Obligations.EncodeOfDecodeIsTheWord : Prop :=
  ∀ (w : Word) (i : Instr), decode w = .command i → encode i = w

/-- R107: the illegal words are those of a reserved opcode and those with a nonzero bit where zero is
required; a word is legal exactly when it matches a row of the opcode table. -/
def Obligations.IllegalWordsAreTheReservedOnes : Prop :=
  (∀ w : Word, (∃ why, decode w = .illegal why) ↔
    (rsvField w ≠ 0 ∨ (opField w).toNat = 0 ∨ 8 ≤ (opField w).toNat ∨
      (((opField w).toNat = 1 ∨ (opField w).toNat = 2) ∧ chField w ≠ 0) ∨
      (((opField w).toNat = 1 ∨ (opField w).toNat = 3 ∨ (opField w).toNat = 4 ∨
          (opField w).toNat = 5 ∨ (opField w).toNat = 7) ∧ dataField w ≠ 0) ∨
      ((opField w).toNat = 2 ∧ (dataField w).extractLsb' 4 12 ≠ 0))) ∧
  (∀ w : Word, (∃ i, decode w = .command i) ↔ ∃ r ∈ opcodeTable, r.covers w = true)

/-- Exactly one row of the opcode table covers a legal word, and it is the row of the decoded
command; none covers an illegal one (derived, 30_encoding.md Decoding). -/
def Obligations.OneRowCoversEachLegalWord : Prop :=
  ∀ w : Word,
    match decode w with
    | .command i => ∃ r, opcodeTable.filter (fun r => r.covers w) = [r] ∧ r.mnemonic = i.mnemonic
    | .illegal _ => opcodeTable.filter (fun r => r.covers w) = []

/-- The assembler of R115 turns the line a command is written as into the command's word, and every
command is well-formed. The abstract lines are the model's reading of R115 (log 15). -/
def Obligations.AssemblerEmitsTheWord : Prop :=
  ∀ i : Instr, i.WellFormed ∧ assembleLine i.toLine = some (.command (encode i))

/-! ## Steps (20_memory.md Ordering, 30_encoding.md Ports, 60_exceptions.md) -/

/-- A step that takes a legal command word off the schedule is `exec` of the decoded command, on the
state with that word taken. That moves are read off a schedule is the model's choice (log 1). -/
def Obligations.StepRunsTheDecodedCommand : Prop :=
  ∀ (s : State) (w : Word) (rest : List Move) (i : Instr),
    s.schedule = .command w :: rest → decode w = .command i →
    step s = exec i { s with schedule := rest }

/-- The other moves: driving the ports, a TICK, and a TICK when the schedule is empty. That moves are
read off a schedule, and that an empty one means TICK, is the model's choice (log 1). -/
def Obligations.StepMakesPortMovesAndTicks : Prop :=
  (∀ (s : State) (rest : List Move) (clk freq : BitVec Config.operandWidth),
    s.schedule = .ports clk freq :: rest →
    step s = .next { s with schedule := rest, clkRate := clk, targetFreq := freq }) ∧
  (∀ (s : State) (rest : List Move), s.schedule = .tick :: rest →
    step s = .next (tick { s with schedule := rest })) ∧
  (∀ s : State, s.schedule = [] → step s = .next (tick s))

/-- No step stops: every error of the block is a status and a next state (60_exceptions.md). -/
def Obligations.EveryStepHasANextState : Prop :=
  ∀ s : State, ∃ t, step s = .next t

/-- R108: an illegal word faults the block with ILLEGAL_COMMAND and changes nothing else. -/
def Obligations.IllegalWordIsRefused : Prop :=
  ∀ (s : State) (w : Word) (rest : List Move) (why : IllegalReason),
    s.schedule = .command w :: rest → decode w = .illegal why → s.life.isFaulted = false →
    step s = .next { s with
      schedule := rest, life := .faulted .illegalCommand
      response := some ⟨.error .illegalCommand, 0#32⟩ }

/-- R264: a faulted block answers every word with FAULTED and changes nothing; it keeps the first
error's code through every step; the counter agent goes on as without the fault. It counts, in every
run after the fault, when the fault came in a running block; when it came in an unconfigured one, the
counter does not count in any run after it. Power-on reset leaves the faulted state. The two
premises are invariants: RunningStatesStayGood, UnconfiguredStatesStayStopped. -/
def Obligations.FaultedBlockAnswersFaulted : Prop :=
  (∀ (s : State) (e : ErrorCode) (w : Word) (rest : List Move), s.life = .faulted e →
    s.schedule = .command w :: rest →
    step s = .next { s with schedule := rest, response := some ⟨.faulted, 0#32⟩ }) ∧
  (∀ (s t : State) (e : ErrorCode), s.life = .faulted e → step s = .next t →
    t.life = .faulted e) ∧
  (∀ (s : State) (l : Life), tick { s with life := l } = { tick s with life := l }) ∧
  (∀ s t : State, s.life.isFaulted = false → step s = .next t → t.life.isFaulted = true →
    t.field .cen = s.field .cen) ∧
  (∀ (s t u : State) (rs : List Response), GoodWhileRunning s → s.life = .running →
    step s = .next t → t.life.isFaulted = true → Run t rs u → u.field .cen = 1) ∧
  (∀ (s t u : State) (rs : List Response), StoppedWhenUnconfigured s → s.life = .unconfigured →
    step s = .next t → t.life.isFaulted = true → Run t rs u →
    u.field .cen = 0 ∧ u.cnt = s.cnt ∧ u.pscnt = s.pscnt) ∧
  (∀ s : State, (powerOnReset s).life = .unconfigured)

/-- R265: only the first failing check is reported, in the order FAULTED, legality, lifecycle and
binding, resolution. The last four clauses: RESOLVE and INIT run on the ports' values, and their
answers for operands taken as numbers, so that they cover every operand width. -/
def Obligations.ChecksReportTheFirstFailure : Prop :=
  (∀ (s : State) (w : Word), s.life.isFaulted = true →
    ∃ t, presentWord w s = .next t ∧ t.response = some ⟨.faulted, 0#32⟩) ∧
  (∀ (s : State) (w : Word) (why : IllegalReason), s.life.isFaulted = false →
    decode w = .illegal why →
    ∃ t, presentWord w s = .next t ∧ t.response = some ⟨.error .illegalCommand, 0#32⟩) ∧
  (∀ (s : State) (w : Word) (mask : BitVec 4), decode w = .command (.init mask) →
    (s.life = .running ∨ (s.life = .unconfigured ∧ mask ∉ Config.supportedSets)) →
    ∃ t, presentWord w s = .next t ∧ t.response = some ⟨.error .resourceConflict, 0#32⟩) ∧
  (∀ (s : State) (w : Word) (i : Instr) (ch : Channel), decode w = .command i →
    i.channel? = some ch → s.life = .unconfigured →
    ∃ t, presentWord w s = .next t ∧ t.response = some ⟨.error .notInitialised, 0#32⟩) ∧
  (∀ (s : State) (w : Word) (i : Instr) (ch : Channel), decode w = .command i →
    i.channel? = some ch → s.life = .running → s.bound ch = false →
    ∃ t, presentWord w s = .next t ∧ t.response = some ⟨.error .resourceConflict, 0#32⟩) ∧
  (∀ (s : State) (w : Word), s.life.isFaulted = false → decode w = .command .resolve →
    presentWord w s = .next (resolveResponse s.clkRate.toNat s.targetFreq.toNat s)) ∧
  (∀ (s : State) (w : Word) (mask : BitVec 4), s.life.isFaulted = false →
    decode w = .command (.init mask) →
    presentWord w s = .next (initWith s.clkRate.toNat s.targetFreq.toNat mask s)) ∧
  (∀ (s : State) (c f : Nat),
    (resolveResponse c f s).response =
      if f = 0 then some ⟨.error .configInvalid, 0#32⟩
      else if f > c then some ⟨.error .configInvalid, 0#32⟩
      else if c / f / 65536 < 2 ^ 16 then
        some ⟨.ok, BitVec.ofNat 16 (c / f / 65536) ++
          BitVec.ofNat 16 (c / f / (c / f / 65536 + 1) - 1)⟩
      else some ⟨.error .configImpossible, 0#32⟩) ∧
  (∀ (s : State) (c f : Nat) (mask : BitVec 4), s.life = .unconfigured →
    mask ∈ Config.supportedSets →
    (initWith c f mask s).response =
      if f = 0 then some ⟨.error .configInvalid, 0#32⟩
      else if f > c then some ⟨.error .configInvalid, 0#32⟩
      else if c / f / 65536 < 2 ^ 16 then some ⟨.ok, mask.setWidth 32⟩
      else some ⟨.error .configImpossible, 0#32⟩)

/-- Errors are precise (derived, 60_exceptions.md Priority of simultaneous errors): a command that
reports a status other than OK has RESULT 0 and changed at most the lifecycle. -/
def Obligations.ErrorsChangeOnlyTheLifecycle : Prop :=
  ∀ (s t : State) (w : Word) (st : Status) (d : Word), presentWord w s = .next t →
    t.response = some ⟨st, d⟩ → st ≠ .ok →
    d = 0#32 ∧ t = { s with life := t.life, response := t.response } ∧
    (t.life = s.life ∨ ∃ e, st = .error e ∧ t.life = .faulted e)

/-- R31: the lifecycle changes only on a command: to RUNNING from UNCONFIGURED by an INIT that answers
OK; to FAULTED, from UNCONFIGURED or RUNNING, with the code reported and for the cause that the code
has, so that no failed RESOLVE faults the block; FAULTED never changes; power-on reset leads back to
UNCONFIGURED. -/
def Obligations.LifecycleChangesOnlyAsListed : Prop :=
  (∀ s t : State, step s = .next t →
    LifeChange s.life t.life ∧
    (t.life ≠ s.life → ∃ w rest, s.schedule = .command w :: rest ∧
      (t.life = .running → ∃ mask, decode w = .command (.init mask) ∧
        t.response = some ⟨.ok, mask.setWidth 32⟩) ∧
      (∀ e, t.life = .faulted e → t.response = some ⟨.error e, 0#32⟩ ∧ FaultCause w s e))) ∧
  (∀ s : State, (powerOnReset s).life = .unconfigured)

/-- R297: RESOLVE and INIT work on what stands on the ports when they run; no other word's effect
depends on the ports, no command drives them, and they have no effect on the running timer. -/
def Obligations.PortsOnlyMatterToResolveAndInit : Prop :=
  (∀ (s t : State) (w : Word) (c f : BitVec Config.operandWidth), decode w ≠ .command .resolve →
    (∀ mask, decode w ≠ .command (.init mask)) → presentWord w s = .next t →
    presentWord w (drivePorts c f s) = .next (drivePorts c f t)) ∧
  (∀ (s : State) (c f : BitVec Config.operandWidth), s.life.isFaulted = false →
    exec .resolve (drivePorts c f s) =
      .next (resolveResponse c.toNat f.toNat (drivePorts c f s)) ∧
    ∀ mask, exec (.init mask) (drivePorts c f s) =
      .next (initWith c.toNat f.toNat mask (drivePorts c f s))) ∧
  (∀ (i : Instr) (s t : State), exec i s = .next t →
    t.clkRate = s.clkRate ∧ t.targetFreq = s.targetFreq) ∧
  (∀ (s : State) (c f : BitVec Config.operandWidth),
    tick (drivePorts c f s) = drivePorts c f (tick s)) ∧
  (∀ (mask : BitVec 4) (s t : State) (c f : BitVec Config.operandWidth), s.life = .running →
    exec (.init mask) s = .next t → exec (.init mask) (drivePorts c f s) = .next (drivePorts c f t))

/-! ## The resolver (40_resolver.md) -/

/-- R131: a zero target frequency, and one above the clock rate, are CONFIG_INVALID; so is every
target frequency at a zero clock rate. -/
def Obligations.ResolveRejectsInvalidOperands : Prop :=
  (∀ c f : Nat, f = 0 ∨ f > c → resolve c f = .err .configInvalid) ∧
  (∀ f : Nat, resolve 0 f = .err .configInvalid)

/-- R133: the prescaler is the quotient by 65536, and CONFIG_IMPOSSIBLE when that does not fit in 16
bits; it is not truncated. -/
def Obligations.PrescalerIsTheQuotientOrImpossible : Prop :=
  ∀ c f : Nat, 0 < f → f ≤ c →
    (2 ^ 32 ≤ c / f → resolve c f = .err .configImpossible) ∧
    (c / f < 2 ^ 32 → ∃ p r, resolve c f = .ok p r ∧ p.toNat = c / f / 65536)

/-- The reload is `ticks / (psc + 1) - 1`, the quotient lies in 1..65535 and so the reload is at most
65534 (derived, 40_resolver.md Properties of the resolver). -/
def Obligations.ReloadIsExactAndNeverFull : Prop :=
  ∀ (c f : Nat) (p r : Half), resolve c f = .ok p r →
    1 ≤ c / f / (p.toNat + 1) ∧ c / f / (p.toNat + 1) ≤ 65535 ∧
    r.toNat + 1 = c / f / (p.toNat + 1) ∧ r.toNat ≤ 65534

/-- CONFIG_IMPOSSIBLE needs operands wider than the ports of this model (derived, 40_resolver.md
Properties of the resolver; W = 32 is R7's default, log 5). -/
def Obligations.ImpossibleNeedsWiderPorts : Prop :=
  (∀ s : State, resolve s.clkRate.toNat s.targetFreq.toNat ≠ .err .configImpossible) ∧
  resolve (2 ^ 32) 1 = .err .configImpossible

/-- The product `(p + 1) * (r + 1)` is at most `ticks` and less by at most `p`, so the output
frequency is at least the target (derived, 40_resolver.md Properties of the resolver). -/
def Obligations.ResolveLosesAtMostThePrescaler : Prop :=
  ∀ (c f : Nat) (p r : Half), resolve c f = .ok p r →
    (p.toNat + 1) * (r.toNat + 1) ≤ c / f ∧
    c / f ≤ (p.toNat + 1) * (r.toNat + 1) + p.toNat ∧
    f * ((p.toNat + 1) * (r.toNat + 1)) ≤ c

/-- R138: the edge cases the source names. -/
def Obligations.ResolveEdgeCases : Prop :=
  (∀ c : Nat, 1 ≤ c → resolve c c = .ok 0#16 0#16) ∧
  (∀ c f : Nat, f > c → resolve c f = .err .configInvalid) ∧
  (∀ c f : Nat, 2 ^ 32 ≤ c / f → resolve c f = .err .configImpossible)

/-- RESOLVE answers with the pair or the error and changes nothing else, in UNCONFIGURED and in
RUNNING (40_resolver.md The RESOLVE command). -/
def Obligations.ResolveCommandOnlyAnswers : Prop :=
  ∀ s : State, s.life.isFaulted = false →
    (∀ p r, resolve s.clkRate.toNat s.targetFreq.toNat = .ok p r →
      exec .resolve s = .next { s with response := some ⟨.ok, p ++ r⟩ }) ∧
    (∀ e, resolve s.clkRate.toNat s.targetFreq.toNat = .err e →
      exec .resolve s = .next { s with response := some ⟨.error e, 0#32⟩ })

/-! ## The initializer (41_initializer.md) -/

/-- The state a successful INIT leaves, and that it leaves nothing else changed (derived,
41_initializer.md State after INIT; reset values 0 as R7 and R54 give them, log 6). -/
def Obligations.InitConfiguresAndStarts : Prop :=
  ∀ (s : State) (p r : Half), s.life = .unconfigured →
    resolve s.clkRate.toNat s.targetFreq.toNat = .ok p r →
    exec (.init 0b1111#4) s = .next { s with
      life := .running, chset := 0b1111#4
      cr1 := 0x00000081#32, ccmr1 := 0x00006868#32, ccmr2 := 0x00006868#32
      ccer := 0x00000000#32, bdtr := 0x00008000#32
      psc := p, pscSh := p, arr := r, arrSh := r
      ccr := ⟨0#16, 0#16, 0#16, 0#16⟩, ccrSh := ⟨0#16, 0#16, 0#16, 0#16⟩
      cnt := 0#16, pscnt := 0#16
      response := some ⟨.ok, 0x0000000F#32⟩ }

/-- R161: a second INIT, and one whose mask is not a supported set, is refused with
RESOURCE_CONFLICT and writes no register. -/
def Obligations.InitResourceConflict : Prop :=
  ∀ (s : State) (mask : BitVec 4),
    s.life = .running ∨ (s.life = .unconfigured ∧ mask ≠ 0b1111#4) →
    exec (.init mask) s = .next { s with
      life := .faulted .resourceConflict
      response := some ⟨.error .resourceConflict, 0#32⟩ }

/-- R162: an INIT whose resolve fails writes nothing but the lifecycle, answers the code, and the
timer is never started: the counter does not count in any run after it. The first clause takes the
operands as numbers, so that both codes are covered; the last one's premise is the invariant of
UnconfiguredStatesStayStopped. -/
def Obligations.FailedResolveLeavesTheTimerStopped : Prop :=
  (∀ (s : State) (c f : Nat) (e : ErrorCode), s.life = .unconfigured → resolve c f = .err e →
    initWith c f 0b1111#4 s =
      { s with life := .faulted e, response := some ⟨.error e, 0#32⟩ }) ∧
  (∀ (s : State) (e : ErrorCode), s.life = .unconfigured →
    resolve s.clkRate.toNat s.targetFreq.toNat = .err e →
    exec (.init 0b1111#4) s =
      .next { s with life := .faulted e, response := some ⟨.error e, 0#32⟩ }) ∧
  (∀ (s t : State) (e : ErrorCode) (rs : List Response), s.life = .faulted e → Run s rs t →
    t.field .cen = s.field .cen) ∧
  (∀ (s t u : State) (e : ErrorCode) (rs : List Response), StoppedWhenUnconfigured s →
    s.life = .unconfigured → resolve s.clkRate.toNat s.targetFreq.toNat = .err e →
    exec (.init 0b1111#4) s = .next t → Run t rs u →
    u.field .cen = 0 ∧ u.cnt = s.cnt ∧ u.pscnt = s.pscnt)

/-- The timer's reset gives every register and shadow copy its reset value and clears the counter,
and the counter does not count after it (derived, 41_initializer.md The nine steps and 10_state.md
Reset values). The zeros of the registers and shadow copies are the model's choice of reset values
(log 6). -/
def Obligations.TimerResetStopsTheCounter : Prop :=
  ∀ s : State,
    resetTimer s = { s with
      cr1 := 0#32, ccmr1 := 0#32, ccmr2 := 0#32, ccer := 0#32, bdtr := 0#32
      psc := 0#16, arr := 0#16, ccr := ⟨0#16, 0#16, 0#16, 0#16⟩
      pscSh := 0#16, arrSh := 0#16, ccrSh := ⟨0#16, 0#16, 0#16, 0#16⟩
      cnt := 0#16, pscnt := 0#16 } ∧
    tick (resetTimer s) = resetTimer s

/-- R165: step 3 puts each channel of the mask in PWM mode 1 with preload, and changes no other field
of any register. -/
def Obligations.ChannelModesFollowTheMask : Prop :=
  ∀ (mask : BitVec 4) (s : State), ∃ w₁ w₂,
    channels.foldl (initChannel mask) s = { s with ccmr1 := w₁, ccmr2 := w₂ } ∧
    w₁ &&& ~~~ 0x00007878#32 = s.ccmr1 &&& ~~~ 0x00007878#32 ∧
    w₂ &&& ~~~ 0x00007878#32 = s.ccmr2 &&& ~~~ 0x00007878#32 ∧
    (∀ ch, mask.getLsbD ch.maskBit = true →
      ({ s with ccmr1 := w₁, ccmr2 := w₂ } : State).field (.ocm ch) = 0b110#32 ∧
      ({ s with ccmr1 := w₁, ccmr2 := w₂ } : State).field (.ocpe ch) = 1#32) ∧
    (∀ ch, mask.getLsbD ch.maskBit = false →
      ({ s with ccmr1 := w₁, ccmr2 := w₂ } : State).field (.ocm ch) = s.field (.ocm ch) ∧
      ({ s with ccmr1 := w₁, ccmr2 := w₂ } : State).field (.ocpe ch) = s.field (.ocpe ch))

/-- R46: writing 1 to UG forces an update event, writing 0 has no effect, only bit 0 of what is
written counts, and EGR reads as 0 in every state. -/
def Obligations.UpdateGenerationForcesAnUpdate : Prop :=
  (∀ (s : State) (v : Word), v.getLsbD 0 = true →
    regWrite .ug v s = { s with
      pscSh := s.psc, arrSh := s.arr, ccrSh := s.ccr, cnt := 0#16, pscnt := 0#16 }) ∧
  (∀ (s : State) (v : Word), v.getLsbD 0 = false → regWrite .ug v s = s) ∧
  (∀ s : State, regRead .egr s = 0#32)

/-- Register writes and the shadow copies (10_state.md Timer registers): a write of PSC is buffered;
one of ARR or CCR[i] reaches its shadow copy at once exactly when its preload bit is 0; a read
gives the value last written; nothing else changes. -/
def Obligations.WritesReachTheShadowWithoutPreload : Prop :=
  ∀ (s : State) (v : Half) (ch : Channel),
    regWrite .psc (v.setWidth 32) s = { s with psc := v } ∧
    regRead .psc (regWrite .psc (v.setWidth 32) s) = v.setWidth 32 ∧
    (s.field .arpe = 1 → regWrite .arr (v.setWidth 32) s = { s with arr := v }) ∧
    (s.field .arpe = 0 → regWrite .arr (v.setWidth 32) s = { s with arr := v, arrSh := v }) ∧
    regRead .arr (regWrite .arr (v.setWidth 32) s) = v.setWidth 32 ∧
    (s.field (.ocpe ch) = 1 →
      regWrite (.ccr ch) (v.setWidth 32) s = { s with ccr := s.ccr.set ch v }) ∧
    (s.field (.ocpe ch) = 0 →
      regWrite (.ccr ch) (v.setWidth 32) s =
        { s with ccr := s.ccr.set ch v, ccrSh := s.ccrSh.set ch v } ∧
      (regWrite (.ccr ch) (v.setWidth 32) s).ccrSh.get ch = v ∧
      ∀ ch', ch' ≠ ch →
        (regWrite (.ccr ch) (v.setWidth 32) s).ccrSh.get ch' = s.ccrSh.get ch') ∧
    regRead (.ccr ch) (regWrite (.ccr ch) (v.setWidth 32) s) = v.setWidth 32 ∧
    ∀ ch', ch' ≠ ch →
      regRead (.ccr ch') (regWrite (.ccr ch) (v.setWidth 32) s) = regRead (.ccr ch') s

/-- Register writes of a field (20_memory.md Transactions, width and atomicity): the field reads as
the low bits of what was written, every bit outside it and everything else of the state is kept. -/
def Obligations.FieldWriteKeepsTheOtherBits : Prop :=
  ∀ (s : State) (f : BitField) (v : Word), f.lo + f.len ≤ 32 →
    (∀ k, k < f.len → ((regWrite (.bits f) v s).field f).getLsbD k = v.getLsbD k) ∧
    (∀ k, f.len ≤ k → ((regWrite (.bits f) v s).field f).getLsbD k = false) ∧
    (∀ k, k < f.lo ∨ f.lo + f.len ≤ k →
      ((regWrite (.bits f) v s).word f.reg).getLsbD k = (s.word f.reg).getLsbD k) ∧
    (∀ r, r ≠ f.reg → (regWrite (.bits f) v s).word r = s.word r) ∧
    regWrite (.bits f) v s = { s with
      cr1 := (regWrite (.bits f) v s).cr1, ccmr1 := (regWrite (.bits f) v s).ccmr1
      ccmr2 := (regWrite (.bits f) v s).ccmr2, ccer := (regWrite (.bits f) v s).ccer
      bdtr := (regWrite (.bits f) v s).bdtr }

/-! ## Channel commands (42_channel.md) -/

/-- R190: a channel command is refused with NOT_INITIALISED before INIT and with RESOURCE_CONFLICT on
an unbound channel, and then writes no register; every channel of a supported set is bound. -/
def Obligations.ChannelCheckRefuses : Prop :=
  (∀ (i : Instr) (ch : Channel) (s : State), i.channel? = some ch → s.life = .unconfigured →
    exec i s = .next { s with
      life := .faulted .notInitialised, response := some ⟨.error .notInitialised, 0#32⟩ }) ∧
  (∀ (i : Instr) (ch : Channel) (s : State), i.channel? = some ch → s.life = .running →
    s.chset.getLsbD (ch.number - 1) = false →
    exec i s = .next { s with
      life := .faulted .resourceConflict, response := some ⟨.error .resourceConflict, 0#32⟩ }) ∧
  (∀ (s : State) (ch : Channel), s.chset ∈ Config.supportedSets → s.bound ch = true)

/-- ENABLE sets CCE(ch), clears CCNE(ch) where the channel has it, keeps every other bit of CCER and
changes nothing else (42_channel.md ENABLE; positions 10_state.md CCER). -/
def Obligations.EnableSetsItsOwnBit : Prop :=
  ∀ (ch : Channel) (s : State), s.life = .running → s.bound ch = true →
    ∃ w, exec (.enable ch) s =
        .next { s with ccer := w, response := some ⟨.ok, 0#32⟩ } ∧
      ∀ k, k < 32 → w.getLsbD k =
        if k = 4 * (ch.number - 1) then true
        else if k = 4 * (ch.number - 1) + 2 ∧ ch ≠ .ch4 then false
        else s.ccer.getLsbD k

/-- DISABLE clears CCE(ch), keeps every other bit of CCER and changes nothing else (42_channel.md
DISABLE; positions 10_state.md CCER). -/
def Obligations.DisableClearsItsOwnBit : Prop :=
  ∀ (ch : Channel) (s : State), s.life = .running → s.bound ch = true →
    ∃ w, exec (.disable ch) s =
        .next { s with ccer := w, response := some ⟨.ok, 0#32⟩ } ∧
      ∀ k, k < 32 → w.getLsbD k =
        if k = 4 * (ch.number - 1) then false else s.ccer.getLsbD k

/-- GET_DUTY answers CCR[ch], the value last written, and changes nothing else (42_channel.md
GET_DUTY). -/
def Obligations.GetDutyAnswersTheRegister : Prop :=
  ∀ (ch : Channel) (s : State), s.life = .running → s.bound ch = true →
    exec (.getDuty ch) s =
      .next { s with response := some ⟨.ok, (s.ccr.get ch).setWidth 32⟩ }

/-- SET_DUTY writes CCR[ch] with any 16-bit value, and CCR_sh[ch] exactly when OCPE(ch) is 0; no other
channel's values and nothing else changes (42_channel.md SET_DUTY). -/
def Obligations.SetDutyWritesItsOwnRegister : Prop :=
  ∀ (ch : Channel) (v : Half) (s : State), s.life = .running → s.bound ch = true →
    ∃ c c', exec (.setDuty ch v) s =
        .next { s with ccr := c, ccrSh := c', response := some ⟨.ok, 0#32⟩ } ∧
      c.get ch = v ∧ (∀ ch', ch' ≠ ch → c.get ch' = s.ccr.get ch') ∧
      c'.get ch = (if s.field (.ocpe ch) = 0 then v else s.ccrSh.get ch) ∧
      ∀ ch', ch' ≠ ch → c'.get ch' = s.ccrSh.get ch'

/-- R209: `set_duty ch1` writes CCR1 and never CCR2. -/
def Obligations.SetDutyOfChannelOneWritesCcr1 : Prop :=
  ∀ (v : Half) (s : State), s.life = .running → s.bound .ch1 = true →
    ∃ t, exec (.setDuty .ch1 v) s = .next t ∧ t.ccr.ch1 = v ∧ t.ccr.ch2 = s.ccr.ch2

/-- GET_MAX_DUTY answers ARR for whichever bound channel, and changes nothing else (42_channel.md
GET_MAX_DUTY). -/
def Obligations.GetMaxDutyAnswersTheReload : Prop :=
  ∀ (ch : Channel) (s : State), s.life = .running → s.bound ch = true →
    exec (.getMaxDuty ch) s = .next { s with response := some ⟨.ok, s.arr.setWidth 32⟩ }

/-- R191: a channel command writes at most its own channel's CCE, CCNE, CCR and shadow (and the
lifecycle and response every command has), and its answer depends on CCR[ch] and ARR alone. -/
def Obligations.ChannelCommandsOwnTheirFields : Prop :=
  (∀ (i : Instr) (ch : Channel) (s t : State), i.channel? = some ch → exec i s = .next t →
    t = { s with
      life := t.life, response := t.response, ccer := t.ccer, ccr := t.ccr, ccrSh := t.ccrSh } ∧
    (∀ k, k ≠ 4 * (ch.number - 1) → k ≠ 4 * (ch.number - 1) + 2 →
      t.ccer.getLsbD k = s.ccer.getLsbD k) ∧
    (ch = .ch4 → t.ccer.getLsbD 14 = s.ccer.getLsbD 14) ∧
    (∀ ch', ch' ≠ ch → t.ccr.get ch' = s.ccr.get ch' ∧ t.ccrSh.get ch' = s.ccrSh.get ch')) ∧
  (∀ (i : Instr) (ch : Channel) (s s' t t' : State), i.channel? = some ch →
    s.life = s'.life → s.chset = s'.chset → s.ccr.get ch = s'.ccr.get ch → s.arr = s'.arr →
    exec i s = .next t → exec i s' = .next t' → t.response = t'.response)

/-- `enable` is idempotent (derived, 42_channel.md ENABLE). -/
def Obligations.EnableIsIdempotent : Prop :=
  ∀ (ch : Channel) (s t : State), s.life = .running → s.bound ch = true →
    exec (.enable ch) s = .next t → exec (.enable ch) t = .next t

/-- The last of a sequence of enables and disables, of whichever channels, decides each channel's
enable bit (derived, 42_channel.md DISABLE). -/
def Obligations.LastToggleWins : Prop :=
  ∀ (cmds : List Instr) (s : State), s.life = .running → s.chset = 0b1111#4 →
    (∀ i ∈ cmds, ∃ ch, i = .enable ch ∨ i = .disable ch) →
    s.schedule = cmds.map (fun i => .command (encode i)) →
    ∃ t, core.run cmds.length s = .next t ∧
      ∀ ch, t.field (.cce ch) =
        match lastToggle ch cmds with
        | some true => 1#32
        | some false => 0#32
        | none => s.field (.cce ch)

/-- The write and read round trip (derived, 42_channel.md SET_DUTY): after `set_duty ch, v`, and
whatever TICKs, port moves and commands other than `set_duty ch` follow in a good run,
`get_duty ch` answers `v`. -/
def Obligations.SetThenGetDutyRoundTrip : Prop :=
  ∀ (ch : Channel) (v : Half) (s t u : State) (rs : List Response), s.life = .running →
    s.bound ch = true → exec (.setDuty ch v) s = .next t →
    (∀ w, Move.command w ∈ t.schedule → ∀ v', decode w ≠ .command (.setDuty ch v')) →
    GoodRun t rs u →
    exec (.getDuty ch) u = .next { u with response := some ⟨.ok, v.setWidth 32⟩ }

/-- The period is fixed after INIT (derived, 42_channel.md GET_MAX_DUTY): no run from a running state
changes ARR or PSC, so every bound channel answers the same reload for as long as the block
runs. -/
def Obligations.PeriodIsFixedAfterInit : Prop :=
  ∀ (s u : State) (rs : List Response), s.life = .running → Run s rs u →
    u.arr = s.arr ∧ u.psc = s.psc ∧
    (u.life = .running → ∀ ch, u.bound ch = true →
      exec (.getMaxDuty ch) u = .next { u with response := some ⟨.ok, s.arr.setWidth 32⟩ })

/-! ## Counter and outputs (43_counter.md) -/

/-- R233: the update event loads every shadow copy from its register and changes nothing a register
read shows. -/
def Obligations.UpdateEventLoadsTheShadows : Prop :=
  ∀ s : State,
    updateEvent s = { s with pscSh := s.psc, arrSh := s.arr, ccrSh := s.ccr } ∧
    ∀ r, regRead r (updateEvent s) = regRead r s

/-- R230: what one TICK does, in each of its cases; while the block runs the count never passes
ARR_sh, so that the modulo 2^16 does not come into play. -/
def Obligations.TickDividesCountsAndWraps : Prop :=
  ∀ s : State,
    (s.cr1.getLsbD 0 = false → tick s = s) ∧
    (s.cr1.getLsbD 0 = true → s.pscnt.toNat < s.pscSh.toNat →
      tick s = { s with pscnt := s.pscnt + 1 }) ∧
    (s.cr1.getLsbD 0 = true → s.pscSh.toNat ≤ s.pscnt.toNat → s.cnt = s.arrSh →
      tick s = { s with
        pscnt := 0#16, cnt := 0#16, pscSh := s.psc, arrSh := s.arr, ccrSh := s.ccr }) ∧
    (s.cr1.getLsbD 0 = true → s.pscSh.toNat ≤ s.pscnt.toNat → s.cnt ≠ s.arrSh →
      tick s = { s with pscnt := 0#16, cnt := BitVec.ofNat 16 ((s.cnt.toNat + 1) % 2 ^ 16) }) ∧
    (RunningInvariant s → s.cnt ≠ s.arrSh → s.cnt.toNat + 1 ≤ s.arrSh.toNat)

/-- The period (derived, 43_counter.md The counter agent): from the start of a period, after `n`
TICKs the counter has the value `n / (P + 1)` modulo `A + 1` and the prescaler count is `n` modulo
`P + 1`; the compare values in use are the old ones before the first wrap and the registers' from
it on. -/
def Obligations.CounterIsPeriodic : Prop :=
  ∀ (s : State) (n : Nat), s.field .cen = 1 → s.cnt = 0#16 → s.pscnt = 0#16 →
    s.pscSh = s.psc → s.arrSh = s.arr →
    (ticks n s).cnt.toNat = n / (s.pscSh.toNat + 1) % (s.arrSh.toNat + 1) ∧
    (ticks n s).pscnt.toNat = n % (s.pscSh.toNat + 1) ∧
    (ticks n s).pscSh = s.pscSh ∧ (ticks n s).arrSh = s.arrSh ∧
    (ticks n s).ccrSh = (if n < periodTicks s then s.ccrSh else s.ccr)

/-- The duty (derived, 43_counter.md PWM outputs and 42_channel.md GET_MAX_DUTY): over one period a
channel in PWM mode 1 has its reference level high for `(P + 1) * min(c, A + 1)` TICKs. -/
def Obligations.HighTicksPerPeriod : Prop :=
  ∀ (s : State) (ch : Channel) (draw : Nat → Level), s.field .cen = 1 → s.cnt = 0#16 →
    s.pscnt = 0#16 → s.field (.ocm ch) = 0b110#32 →
    ((List.range (periodTicks s)).countP
        (fun n => ocref (draw n) ch (ticks n s) == .high)) =
      (s.pscSh.toNat + 1) * highCounts (s.ccrSh.get ch).toNat s.arrSh.toNat

/-- R236: the reference level in PWM mode 1; in any other mode it is either level, and the channel's
output is off in every state the block reaches. -/
def Obligations.ReferenceLevelRule : Prop :=
  (∀ (draw : Level) (ch : Channel) (s : State), s.field (.ocm ch) = 0b110#32 →
    ocref draw ch s = if s.cnt.toNat < (s.ccrSh.get ch).toNat then .high else .low) ∧
  (∀ (ch : Channel) (s : State) (l : Level), s.field (.ocm ch) ≠ 0b110#32 →
    ∃ draw, ocref draw ch s = l) ∧
  (∀ (t : State) (ch : Channel) (draw : Level), Reachable t → t.field (.ocm ch) ≠ 0b110#32 →
    out draw ch t = .off)

/-- The outputs' drive, and that no complementary output is ever on (43_counter.md PWM outputs). The
inverse level appears on OUTN at once: dead-time is left out, which is the model's (log 16) and shows
in no state a run reaches. -/
def Obligations.OutputDriveRule : Prop :=
  (∀ (draw : Level) (ch : Channel) (s : State),
    out draw ch s =
      if s.field .moe = 1 ∧ s.field (.cce ch) = 1 then
        (match ocref draw ch s with | .high => .high | .low => .low)
      else .off) ∧
  (∀ (draw : Level) (ch : Channel) (f : BitField) (s : State), BitField.ccne ch = some f →
    outn draw ch s = some
      (if s.field .moe = 1 ∧ s.field f = 1 then
        (match ocref draw ch s with | .high => .low | .low => .high)
      else .off)) ∧
  (∀ (t : State) (ch : Channel) (draw : Level) (d : Drive), Reachable t →
    outn draw ch t = some d → d = .off)

/-- What changes an output, main or complementary (derived, 43_counter.md PWM outputs): of all steps,
only a TICK and an `enable`, a `disable` or an INIT that answers OK. So a command that reports
another status, a RESOLVE, `get_duty`, `get_max_duty`, `set_duty` and a port move leave every output;
`enable` and `disable` change their own channel's at once and no other. -/
def Obligations.OutputsChangeOnlyAsListed : Prop :=
  (∀ s t : State, GoodWhileRunning s → step s = .next t → ¬ SameOutputs s t →
    (nextMove s).1 = .tick ∨
    ∃ w d, (nextMove s).1 = .command w ∧ t.response = some ⟨.ok, d⟩ ∧
      ((∃ ch, decode w = .command (.enable ch)) ∨ (∃ ch, decode w = .command (.disable ch)) ∨
        ∃ mask, decode w = .command (.init mask))) ∧
  (∀ (s t : State) (w : Word) (st : Status) (d : Word), presentWord w s = .next t →
    t.response = some ⟨st, d⟩ → st ≠ .ok → SameOutputs s t) ∧
  (∀ s t : State, exec .resolve s = .next t → SameOutputs s t) ∧
  (∀ (s t : State) (ch : Channel), exec (.getDuty ch) s = .next t → SameOutputs s t) ∧
  (∀ (s t : State) (ch : Channel), exec (.getMaxDuty ch) s = .next t → SameOutputs s t) ∧
  (∀ (s : State) (c f : BitVec Config.operandWidth), SameOutputs s (drivePorts c f s)) ∧
  (∀ (s t : State) (ch : Channel) (v : Half), GoodWhileRunning s →
    exec (.setDuty ch v) s = .next t → SameOutputs s t) ∧
  (∀ (s t : State) (ch : Channel), GoodWhileRunning s → s.life = .running → s.bound ch = true →
    exec (.enable ch) s = .next t →
    (∀ draw, out draw ch t = (ocref draw ch s).drive) ∧
    (∀ draw d, outn draw ch t = some d → d = .off) ∧
    ∀ draw ch', ch' ≠ ch → out draw ch' t = out draw ch' s ∧ outn draw ch' t = outn draw ch' s) ∧
  (∀ (s t : State) (ch : Channel), GoodWhileRunning s → s.life = .running → s.bound ch = true →
    exec (.disable ch) s = .next t →
    (∀ draw, out draw ch t = .off) ∧
    (∀ draw, outn draw ch t = outn draw ch s) ∧
    ∀ draw ch', ch' ≠ ch → out draw ch' t = out draw ch' s ∧ outn draw ch' t = outn draw ch' s)

/-- The start of the waveform (derived, 43_counter.md PWM outputs): after INIT and a `set_duty`, every
reference level is low for the whole first period, and the value is in use at its end. That INIT
leaves the compare values in use at 0 rests on the model's choice of reset values (log 6). -/
def Obligations.FirstPeriodIsLow : Prop :=
  ∀ (s t u : State) (ch : Channel) (v : Half) (p r : Half), s.life = .unconfigured →
    resolve s.clkRate.toNat s.targetFreq.toNat = .ok p r →
    exec (.init 0b1111#4) s = .next t → exec (.setDuty ch v) t = .next u →
    (∀ n, n < (p.toNat + 1) * (r.toNat + 1) → ∀ draw ch', ocref draw ch' (ticks n u) = .low) ∧
    (ticks ((p.toNat + 1) * (r.toNat + 1)) u).ccrSh.get ch = v

/-- The preload latency (derived, 70_reset_and_hazards.md Hazards software must respect): in a running
block a new compare value comes into use after at least 1 and at most `(P + 1) * (A + 1)` TICKs,
and until then the old compare values stay in use. -/
def Obligations.NewDutyIsInUseWithinOnePeriod : Prop :=
  ∀ (s t : State) (ch : Channel) (v : Half), RunningInvariant s → s.life = .running →
    s.bound ch = true → exec (.setDuty ch v) s = .next t →
    ∃ k, 1 ≤ k ∧ k ≤ periodTicks s ∧
      (∀ n, n < k → (ticks n t).ccrSh = s.ccrSh) ∧ (ticks k t).ccrSh.get ch = v

/-! ## Invariants and reset (10_state.md, 70_reset_and_hazards.md) -/

/-- The invariant of running states (derived, 10_state.md Reset values) is kept by every step. -/
def Obligations.RunningStatesStayGood : Prop :=
  ∀ s t : State, GoodWhileRunning s → step s = .next t → GoodWhileRunning t

/-- The bits no rule names keep their reset values through every step (10_state.md Timer
registers). -/
def Obligations.UnnamedBitsKeepTheirResetValues : Prop :=
  ∀ s t : State, UnnamedBitsAtReset s → step s = .next t → UnnamedBitsAtReset t

/-- No step enables a complementary output (43_counter.md PWM outputs). -/
def Obligations.ComplementaryBitsStayClear : Prop :=
  ∀ s t : State, ComplementaryOff s → step s = .next t → ComplementaryOff t

/-- Every step keeps it that an enabled output's channel is in PWM mode 1 (43_counter.md PWM
outputs). -/
def Obligations.EnabledChannelsStayInPwmMode : Prop :=
  ∀ s t : State, EnabledOnlyInPwmMode s → step s = .next t → EnabledOnlyInPwmMode t

/-- Every step keeps it that a running block's channel set is a supported one (42_channel.md Common
rules). -/
def Obligations.RunningSetStaysSupported : Prop :=
  ∀ s t : State, RunningSetSupported s → step s = .next t → RunningSetSupported t

/-- Every step keeps it that an unconfigured block's counter is stopped, so that the timer runs by a
successful INIT alone and the clock gate changes nothing before it (10_state.md Reset values;
60_exceptions.md Timers, devices, multiprocessing, debug, power). -/
def Obligations.UnconfiguredStatesStayStopped : Prop :=
  ∀ s t : State, StoppedWhenUnconfigured s → step s = .next t → StoppedWhenUnconfigured t

/-- The invariants hold at power-on reset, whatever moves are ahead. That the enable bits are clear
there rests on the model's choice of reset values (log 6). -/
def Obligations.InvariantsHoldAtReset : Prop :=
  ∀ moves : List Move,
    GoodWhileRunning (atReset moves) ∧ UnnamedBitsAtReset (atReset moves) ∧
    ComplementaryOff (atReset moves) ∧ EnabledOnlyInPwmMode (atReset moves) ∧
    RunningSetSupported (atReset moves) ∧ StoppedWhenUnconfigured (atReset moves)

/-- The state at power-on reset; its outputs are off; and before INIT the timer registers cannot be
observed: two states with the counter stopped that differ in them alone answer alike, and are equal
once INIT has succeeded (derived, 10_state.md Reset values and 43_counter.md PWM outputs). The zeros
of the registers and shadow copies, and with them the outputs, rest on the model's choice of reset
values (log 6). -/
def Obligations.PowerOnStateAndItsObservers : Prop :=
  (State.reset.life = .unconfigured ∧ State.reset.chset = 0b0000#4 ∧
    (∀ r, State.reset.word r = 0#32) ∧ State.reset.psc = 0#16 ∧ State.reset.arr = 0#16 ∧
    (∀ ch, State.reset.ccr.get ch = 0#16) ∧ State.reset.pscSh = State.reset.psc ∧
    State.reset.arrSh = State.reset.arr ∧ State.reset.ccrSh = State.reset.ccr ∧
    State.reset.cnt = 0#16 ∧ State.reset.pscnt = 0#16) ∧
  (∀ draw ch, out draw ch State.reset = .off ∧
    ∀ d, outn draw ch State.reset = some d → d = .off) ∧
  (∀ s s' t t' : State, s.life = .unconfigured → s.field .cen = 0 → s'.field .cen = 0 →
    sameBeforeInit s s' → step s = .next t → step s' = .next t' →
    sameBeforeInit t t' ∧ (t.life = .running → t = t'))

/-! ## The register block (20_memory.md) -/

/-- The register map (20_memory.md Address spaces): a register reads at its offset, an offset R86 marks
as not in scope is refused by name, an access that is not an aligned word is refused, and the
16-bit registers read 0 in bits 31:16. The read-only bus view is the model's (log 13), and so is that
the offset is what must be aligned (log 19). -/
def Obligations.RegisterBlockMap : Prop :=
  (∀ (r : Reg) (s : State), busReadAt (regOffset r) 4 s = .next (regRead r s)) ∧
  (∀ (s : State) (o : Nat), o ∈ [0x04, 0x08, 0x0C, 0x10, 0x30, 0x48, 0x4C] →
    busReadAt o 4 s = .refused .registerOutOfScope) ∧
  (∀ s : State, busReadAt 0x24 4 s = .refused .counterNotReadable) ∧
  (∀ (s : State) (o : Nat), 0x50 ≤ o → o % 4 = 0 → busReadAt o 4 s = .fault .noRegister) ∧
  (∀ (s : State) (o bytes : Nat), bytes ≠ 4 ∨ o % 4 ≠ 0 →
    busReadAt o bytes s = .refused .notAnAlignedWord) ∧
  (∀ (s : State) (ch : Channel) (k : Nat), 16 ≤ k →
    (regRead .psc s).getLsbD k = false ∧ (regRead .arr s).getLsbD k = false ∧
    (regRead (.ccr ch) s).getLsbD k = false)
end

