-- ==== Sys2Proof/Laws/Bits.lean ====
section
/-! SUPPORT. Bit fields: which bits `setField` changes, and what `getField` reads after it. -/

namespace Sys2Proof.Machine

theorem getLsbD_fieldMask (lo len k : Nat) :
    (fieldMask lo len).getLsbD k = decide (lo ≤ k ∧ k < lo + len ∧ k < 32) := by
  by_cases h : k < 32 <;> by_cases h₁ : lo ≤ k <;> by_cases h₂ : k < lo + len <;>
    simp [fieldMask, h, h₁, h₂] <;> omega

theorem getLsbD_getField (w : Word) (lo len k : Nat) :
    (getField w lo len).getLsbD k = (decide (k < len ∧ k < 32) && w.getLsbD (lo + k)) := by
  simp only [getField, BitVec.getLsbD_and, BitVec.getLsbD_ushiftRight, getLsbD_fieldMask]
  by_cases h : k < len <;> by_cases h₁ : k < 32 <;> simp [h, h₁]

/-- What a field write does to each bit (R83). -/
theorem getLsbD_setField (w : Word) (lo len : Nat) (v : Word) (k : Nat) :
    (setField w lo len v).getLsbD k =
      if lo ≤ k ∧ k < lo + len ∧ k < 32 then v.getLsbD (k - lo) else w.getLsbD k := by
  simp only [setField, BitVec.getLsbD_or, BitVec.getLsbD_and, BitVec.getLsbD_not,
    BitVec.getLsbD_shiftLeft, getLsbD_fieldMask]
  by_cases h : k < 32
  · by_cases h₁ : lo ≤ k <;> by_cases h₂ : k < lo + len <;> simp [h, h₁, h₂]
  · simp [h, BitVec.getLsbD_of_ge w k (by omega)]

/-- What a write of a one-bit field does to each bit. -/
theorem getLsbD_setField_one (w : Word) (lo : Nat) (v : Word) (k : Nat) (hk : k < 32) :
    (setField w lo 1 v).getLsbD k = if k = lo then v.getLsbD 0 else w.getLsbD k := by
  rw [getLsbD_setField]
  by_cases h : k = lo
  · rw [if_pos (by omega), if_pos h, h, Nat.sub_self]
  · rw [if_neg (by omega), if_neg h]

/-- A field just written reads as the low bits of what was written. -/
theorem getField_setField_same (w : Word) (lo len : Nat) (v : Word) (hl : lo + len ≤ 32) :
    getField (setField w lo len v) lo len = v &&& fieldMask 0 len := by
  apply BitVec.eq_of_getLsbD_eq
  intro k hk
  rw [getLsbD_getField, getLsbD_setField, BitVec.getLsbD_and, getLsbD_fieldMask]
  by_cases h : k < len <;> simp [h, hk]
  omega

/-- A field apart from the one written reads as before. -/
theorem getField_setField_apart (w : Word) (lo len lo' len' : Nat) (v : Word)
    (h : lo + len ≤ lo' ∨ lo' + len' ≤ lo) :
    getField (setField w lo len v) lo' len' = getField w lo' len' := by
  apply BitVec.eq_of_getLsbD_eq
  intro k hk
  rw [getLsbD_getField, getLsbD_getField, getLsbD_setField]
  by_cases hk' : k < len'
  · rw [if_neg (by omega)]
  · simp [hk']

/-- Writing a field twice leaves what writing it once leaves, when the second value is the
first. -/
theorem setField_setField_same (w : Word) (lo len : Nat) (v : Word) :
    setField (setField w lo len v) lo len v = setField w lo len v := by
  apply BitVec.eq_of_getLsbD_eq
  intro k _
  rw [getLsbD_setField, getLsbD_setField]
  split <;> rfl

/-- The bits outside a mask are untouched by a write of a field inside the mask. -/
theorem setField_outside (w : Word) (lo len : Nat) (v m : Word)
    (h : fieldMask lo len &&& ~~~ m = 0) : setField w lo len v &&& ~~~ m = w &&& ~~~ m := by
  apply BitVec.eq_of_getLsbD_eq
  intro k hk
  have hb := congrArg (fun x : Word => x.getLsbD k) h
  simp only [BitVec.getLsbD_and, getLsbD_fieldMask, BitVec.getLsbD_not] at hb
  rw [BitVec.getLsbD_and, BitVec.getLsbD_and, getLsbD_setField]
  by_cases hin : lo ≤ k ∧ k < lo + len ∧ k < 32
  · simp_all
  · rw [if_neg hin]

end Sys2Proof.Machine
end

