-- ==== Sys2Proof/Laws/State.lean ====
section
/-! SUPPORT. What each update of State leaves in each field, so that no later proof unfolds one. -/

namespace Sys2Proof.Machine

/-! ## A word register replaced -/

@[simp] theorem setWord_life (s : State) (r : WordReg) (w : Word) : (s.setWord r w).life = s.life := by cases r <;> rfl
@[simp] theorem setWord_chset (s : State) (r : WordReg) (w : Word) : (s.setWord r w).chset = s.chset := by cases r <;> rfl
@[simp] theorem setWord_psc (s : State) (r : WordReg) (w : Word) : (s.setWord r w).psc = s.psc := by cases r <;> rfl
@[simp] theorem setWord_arr (s : State) (r : WordReg) (w : Word) : (s.setWord r w).arr = s.arr := by cases r <;> rfl
@[simp] theorem setWord_ccr (s : State) (r : WordReg) (w : Word) : (s.setWord r w).ccr = s.ccr := by cases r <;> rfl
@[simp] theorem setWord_pscSh (s : State) (r : WordReg) (w : Word) : (s.setWord r w).pscSh = s.pscSh := by cases r <;> rfl
@[simp] theorem setWord_arrSh (s : State) (r : WordReg) (w : Word) : (s.setWord r w).arrSh = s.arrSh := by cases r <;> rfl
@[simp] theorem setWord_ccrSh (s : State) (r : WordReg) (w : Word) : (s.setWord r w).ccrSh = s.ccrSh := by cases r <;> rfl
@[simp] theorem setWord_cnt (s : State) (r : WordReg) (w : Word) : (s.setWord r w).cnt = s.cnt := by cases r <;> rfl
@[simp] theorem setWord_pscnt (s : State) (r : WordReg) (w : Word) : (s.setWord r w).pscnt = s.pscnt := by cases r <;> rfl
@[simp] theorem setWord_clkRate (s : State) (r : WordReg) (w : Word) : (s.setWord r w).clkRate = s.clkRate := by cases r <;> rfl
@[simp] theorem setWord_targetFreq (s : State) (r : WordReg) (w : Word) : (s.setWord r w).targetFreq = s.targetFreq := by cases r <;> rfl
@[simp] theorem setWord_response (s : State) (r : WordReg) (w : Word) : (s.setWord r w).response = s.response := by cases r <;> rfl
@[simp] theorem setWord_schedule (s : State) (r : WordReg) (w : Word) : (s.setWord r w).schedule = s.schedule := by cases r <;> rfl

/-- Only the register named is replaced. -/
@[simp] theorem setWord_word (s : State) (r r' : WordReg) (w : Word) :
    (s.setWord r w).word r' = if r' = r then w else s.word r' := by
  cases r <;> cases r' <;> rfl

/-! ## A bit field replaced -/

@[simp] theorem setFieldTo_life (s : State) (b : BitField) (v : Word) : (s.setFieldTo b v).life = s.life := by simp [State.setFieldTo]
@[simp] theorem setFieldTo_chset (s : State) (b : BitField) (v : Word) : (s.setFieldTo b v).chset = s.chset := by simp [State.setFieldTo]
@[simp] theorem setFieldTo_psc (s : State) (b : BitField) (v : Word) : (s.setFieldTo b v).psc = s.psc := by simp [State.setFieldTo]
@[simp] theorem setFieldTo_arr (s : State) (b : BitField) (v : Word) : (s.setFieldTo b v).arr = s.arr := by simp [State.setFieldTo]
@[simp] theorem setFieldTo_ccr (s : State) (b : BitField) (v : Word) : (s.setFieldTo b v).ccr = s.ccr := by simp [State.setFieldTo]
@[simp] theorem setFieldTo_pscSh (s : State) (b : BitField) (v : Word) : (s.setFieldTo b v).pscSh = s.pscSh := by simp [State.setFieldTo]
@[simp] theorem setFieldTo_arrSh (s : State) (b : BitField) (v : Word) : (s.setFieldTo b v).arrSh = s.arrSh := by simp [State.setFieldTo]
@[simp] theorem setFieldTo_ccrSh (s : State) (b : BitField) (v : Word) : (s.setFieldTo b v).ccrSh = s.ccrSh := by simp [State.setFieldTo]
@[simp] theorem setFieldTo_cnt (s : State) (b : BitField) (v : Word) : (s.setFieldTo b v).cnt = s.cnt := by simp [State.setFieldTo]
@[simp] theorem setFieldTo_pscnt (s : State) (b : BitField) (v : Word) : (s.setFieldTo b v).pscnt = s.pscnt := by simp [State.setFieldTo]
@[simp] theorem setFieldTo_clkRate (s : State) (b : BitField) (v : Word) : (s.setFieldTo b v).clkRate = s.clkRate := by simp [State.setFieldTo]
@[simp] theorem setFieldTo_targetFreq (s : State) (b : BitField) (v : Word) : (s.setFieldTo b v).targetFreq = s.targetFreq := by simp [State.setFieldTo]
@[simp] theorem setFieldTo_response (s : State) (b : BitField) (v : Word) : (s.setFieldTo b v).response = s.response := by simp [State.setFieldTo]
@[simp] theorem setFieldTo_schedule (s : State) (b : BitField) (v : Word) : (s.setFieldTo b v).schedule = s.schedule := by simp [State.setFieldTo]

/-! ## A response -/

@[simp] theorem respond_life (st : Status) (d : Word) (s : State) : (respond st d s).life = s.life := rfl
@[simp] theorem respond_chset (st : Status) (d : Word) (s : State) : (respond st d s).chset = s.chset := rfl
@[simp] theorem respond_cr1 (st : Status) (d : Word) (s : State) : (respond st d s).cr1 = s.cr1 := rfl
@[simp] theorem respond_ccmr1 (st : Status) (d : Word) (s : State) : (respond st d s).ccmr1 = s.ccmr1 := rfl
@[simp] theorem respond_ccmr2 (st : Status) (d : Word) (s : State) : (respond st d s).ccmr2 = s.ccmr2 := rfl
@[simp] theorem respond_ccer (st : Status) (d : Word) (s : State) : (respond st d s).ccer = s.ccer := rfl
@[simp] theorem respond_bdtr (st : Status) (d : Word) (s : State) : (respond st d s).bdtr = s.bdtr := rfl
@[simp] theorem respond_psc (st : Status) (d : Word) (s : State) : (respond st d s).psc = s.psc := rfl
@[simp] theorem respond_arr (st : Status) (d : Word) (s : State) : (respond st d s).arr = s.arr := rfl
@[simp] theorem respond_ccr (st : Status) (d : Word) (s : State) : (respond st d s).ccr = s.ccr := rfl
@[simp] theorem respond_pscSh (st : Status) (d : Word) (s : State) : (respond st d s).pscSh = s.pscSh := rfl
@[simp] theorem respond_arrSh (st : Status) (d : Word) (s : State) : (respond st d s).arrSh = s.arrSh := rfl
@[simp] theorem respond_ccrSh (st : Status) (d : Word) (s : State) : (respond st d s).ccrSh = s.ccrSh := rfl
@[simp] theorem respond_cnt (st : Status) (d : Word) (s : State) : (respond st d s).cnt = s.cnt := rfl
@[simp] theorem respond_pscnt (st : Status) (d : Word) (s : State) : (respond st d s).pscnt = s.pscnt := rfl
@[simp] theorem respond_clkRate (st : Status) (d : Word) (s : State) : (respond st d s).clkRate = s.clkRate := rfl
@[simp] theorem respond_targetFreq (st : Status) (d : Word) (s : State) : (respond st d s).targetFreq = s.targetFreq := rfl
@[simp] theorem respond_response (st : Status) (d : Word) (s : State) : (respond st d s).response = some ⟨st, d⟩ := rfl
@[simp] theorem respond_schedule (st : Status) (d : Word) (s : State) : (respond st d s).schedule = s.schedule := rfl
@[simp] theorem respond_word (st : Status) (d : Word) (s : State) (r : WordReg) : (respond st d s).word r = s.word r := by cases r <;> rfl

/-! ## An error -/

@[simp] theorem raiseFault_life (e : ErrorCode) (s : State) : (raiseFault e s).life = .faulted e := rfl
@[simp] theorem raiseFault_chset (e : ErrorCode) (s : State) : (raiseFault e s).chset = s.chset := rfl
@[simp] theorem raiseFault_cr1 (e : ErrorCode) (s : State) : (raiseFault e s).cr1 = s.cr1 := rfl
@[simp] theorem raiseFault_ccmr1 (e : ErrorCode) (s : State) : (raiseFault e s).ccmr1 = s.ccmr1 := rfl
@[simp] theorem raiseFault_ccmr2 (e : ErrorCode) (s : State) : (raiseFault e s).ccmr2 = s.ccmr2 := rfl
@[simp] theorem raiseFault_ccer (e : ErrorCode) (s : State) : (raiseFault e s).ccer = s.ccer := rfl
@[simp] theorem raiseFault_bdtr (e : ErrorCode) (s : State) : (raiseFault e s).bdtr = s.bdtr := rfl
@[simp] theorem raiseFault_psc (e : ErrorCode) (s : State) : (raiseFault e s).psc = s.psc := rfl
@[simp] theorem raiseFault_arr (e : ErrorCode) (s : State) : (raiseFault e s).arr = s.arr := rfl
@[simp] theorem raiseFault_ccr (e : ErrorCode) (s : State) : (raiseFault e s).ccr = s.ccr := rfl
@[simp] theorem raiseFault_pscSh (e : ErrorCode) (s : State) : (raiseFault e s).pscSh = s.pscSh := rfl
@[simp] theorem raiseFault_arrSh (e : ErrorCode) (s : State) : (raiseFault e s).arrSh = s.arrSh := rfl
@[simp] theorem raiseFault_ccrSh (e : ErrorCode) (s : State) : (raiseFault e s).ccrSh = s.ccrSh := rfl
@[simp] theorem raiseFault_cnt (e : ErrorCode) (s : State) : (raiseFault e s).cnt = s.cnt := rfl
@[simp] theorem raiseFault_pscnt (e : ErrorCode) (s : State) : (raiseFault e s).pscnt = s.pscnt := rfl
@[simp] theorem raiseFault_clkRate (e : ErrorCode) (s : State) : (raiseFault e s).clkRate = s.clkRate := rfl
@[simp] theorem raiseFault_targetFreq (e : ErrorCode) (s : State) : (raiseFault e s).targetFreq = s.targetFreq := rfl
@[simp] theorem raiseFault_response (e : ErrorCode) (s : State) : (raiseFault e s).response = some ⟨.error e, 0⟩ := rfl
@[simp] theorem raiseFault_schedule (e : ErrorCode) (s : State) : (raiseFault e s).schedule = s.schedule := rfl
@[simp] theorem raiseFault_word (e : ErrorCode) (s : State) (r : WordReg) : (raiseFault e s).word r = s.word r := by cases r <;> rfl

/-! ## The operand ports -/

@[simp] theorem drivePorts_life (c f : BitVec Config.operandWidth) (s : State) : (drivePorts c f s).life = s.life := rfl
@[simp] theorem drivePorts_chset (c f : BitVec Config.operandWidth) (s : State) : (drivePorts c f s).chset = s.chset := rfl
@[simp] theorem drivePorts_cr1 (c f : BitVec Config.operandWidth) (s : State) : (drivePorts c f s).cr1 = s.cr1 := rfl
@[simp] theorem drivePorts_ccmr1 (c f : BitVec Config.operandWidth) (s : State) : (drivePorts c f s).ccmr1 = s.ccmr1 := rfl
@[simp] theorem drivePorts_ccmr2 (c f : BitVec Config.operandWidth) (s : State) : (drivePorts c f s).ccmr2 = s.ccmr2 := rfl
@[simp] theorem drivePorts_ccer (c f : BitVec Config.operandWidth) (s : State) : (drivePorts c f s).ccer = s.ccer := rfl
@[simp] theorem drivePorts_bdtr (c f : BitVec Config.operandWidth) (s : State) : (drivePorts c f s).bdtr = s.bdtr := rfl
@[simp] theorem drivePorts_psc (c f : BitVec Config.operandWidth) (s : State) : (drivePorts c f s).psc = s.psc := rfl
@[simp] theorem drivePorts_arr (c f : BitVec Config.operandWidth) (s : State) : (drivePorts c f s).arr = s.arr := rfl
@[simp] theorem drivePorts_ccr (c f : BitVec Config.operandWidth) (s : State) : (drivePorts c f s).ccr = s.ccr := rfl
@[simp] theorem drivePorts_pscSh (c f : BitVec Config.operandWidth) (s : State) : (drivePorts c f s).pscSh = s.pscSh := rfl
@[simp] theorem drivePorts_arrSh (c f : BitVec Config.operandWidth) (s : State) : (drivePorts c f s).arrSh = s.arrSh := rfl
@[simp] theorem drivePorts_ccrSh (c f : BitVec Config.operandWidth) (s : State) : (drivePorts c f s).ccrSh = s.ccrSh := rfl
@[simp] theorem drivePorts_cnt (c f : BitVec Config.operandWidth) (s : State) : (drivePorts c f s).cnt = s.cnt := rfl
@[simp] theorem drivePorts_pscnt (c f : BitVec Config.operandWidth) (s : State) : (drivePorts c f s).pscnt = s.pscnt := rfl
@[simp] theorem drivePorts_clkRate (c f : BitVec Config.operandWidth) (s : State) : (drivePorts c f s).clkRate = c := rfl
@[simp] theorem drivePorts_targetFreq (c f : BitVec Config.operandWidth) (s : State) : (drivePorts c f s).targetFreq = f := rfl
@[simp] theorem drivePorts_response (c f : BitVec Config.operandWidth) (s : State) : (drivePorts c f s).response = s.response := rfl
@[simp] theorem drivePorts_schedule (c f : BitVec Config.operandWidth) (s : State) : (drivePorts c f s).schedule = s.schedule := rfl
@[simp] theorem drivePorts_word (c f : BitVec Config.operandWidth) (s : State) (r : WordReg) : (drivePorts c f s).word r = s.word r := by cases r <;> rfl

/-! ## The update event -/

@[simp] theorem updateEvent_life (s : State) : (updateEvent s).life = s.life := rfl
@[simp] theorem updateEvent_chset (s : State) : (updateEvent s).chset = s.chset := rfl
@[simp] theorem updateEvent_cr1 (s : State) : (updateEvent s).cr1 = s.cr1 := rfl
@[simp] theorem updateEvent_ccmr1 (s : State) : (updateEvent s).ccmr1 = s.ccmr1 := rfl
@[simp] theorem updateEvent_ccmr2 (s : State) : (updateEvent s).ccmr2 = s.ccmr2 := rfl
@[simp] theorem updateEvent_ccer (s : State) : (updateEvent s).ccer = s.ccer := rfl
@[simp] theorem updateEvent_bdtr (s : State) : (updateEvent s).bdtr = s.bdtr := rfl
@[simp] theorem updateEvent_psc (s : State) : (updateEvent s).psc = s.psc := rfl
@[simp] theorem updateEvent_arr (s : State) : (updateEvent s).arr = s.arr := rfl
@[simp] theorem updateEvent_ccr (s : State) : (updateEvent s).ccr = s.ccr := rfl
@[simp] theorem updateEvent_pscSh (s : State) : (updateEvent s).pscSh = s.psc := rfl
@[simp] theorem updateEvent_arrSh (s : State) : (updateEvent s).arrSh = s.arr := rfl
@[simp] theorem updateEvent_ccrSh (s : State) : (updateEvent s).ccrSh = s.ccr := rfl
@[simp] theorem updateEvent_cnt (s : State) : (updateEvent s).cnt = s.cnt := rfl
@[simp] theorem updateEvent_pscnt (s : State) : (updateEvent s).pscnt = s.pscnt := rfl
@[simp] theorem updateEvent_clkRate (s : State) : (updateEvent s).clkRate = s.clkRate := rfl
@[simp] theorem updateEvent_targetFreq (s : State) : (updateEvent s).targetFreq = s.targetFreq := rfl
@[simp] theorem updateEvent_response (s : State) : (updateEvent s).response = s.response := rfl
@[simp] theorem updateEvent_schedule (s : State) : (updateEvent s).schedule = s.schedule := rfl
@[simp] theorem updateEvent_word (s : State) (r : WordReg) : (updateEvent s).word r = s.word r := by cases r <;> rfl

/-! ## The forced update -/

@[simp] theorem forcedUpdate_life (s : State) : (forcedUpdate s).life = s.life := rfl
@[simp] theorem forcedUpdate_chset (s : State) : (forcedUpdate s).chset = s.chset := rfl
@[simp] theorem forcedUpdate_cr1 (s : State) : (forcedUpdate s).cr1 = s.cr1 := rfl
@[simp] theorem forcedUpdate_ccmr1 (s : State) : (forcedUpdate s).ccmr1 = s.ccmr1 := rfl
@[simp] theorem forcedUpdate_ccmr2 (s : State) : (forcedUpdate s).ccmr2 = s.ccmr2 := rfl
@[simp] theorem forcedUpdate_ccer (s : State) : (forcedUpdate s).ccer = s.ccer := rfl
@[simp] theorem forcedUpdate_bdtr (s : State) : (forcedUpdate s).bdtr = s.bdtr := rfl
@[simp] theorem forcedUpdate_psc (s : State) : (forcedUpdate s).psc = s.psc := rfl
@[simp] theorem forcedUpdate_arr (s : State) : (forcedUpdate s).arr = s.arr := rfl
@[simp] theorem forcedUpdate_ccr (s : State) : (forcedUpdate s).ccr = s.ccr := rfl
@[simp] theorem forcedUpdate_pscSh (s : State) : (forcedUpdate s).pscSh = s.psc := rfl
@[simp] theorem forcedUpdate_arrSh (s : State) : (forcedUpdate s).arrSh = s.arr := rfl
@[simp] theorem forcedUpdate_ccrSh (s : State) : (forcedUpdate s).ccrSh = s.ccr := rfl
@[simp] theorem forcedUpdate_cnt (s : State) : (forcedUpdate s).cnt = 0 := rfl
@[simp] theorem forcedUpdate_pscnt (s : State) : (forcedUpdate s).pscnt = 0 := rfl
@[simp] theorem forcedUpdate_clkRate (s : State) : (forcedUpdate s).clkRate = s.clkRate := rfl
@[simp] theorem forcedUpdate_targetFreq (s : State) : (forcedUpdate s).targetFreq = s.targetFreq := rfl
@[simp] theorem forcedUpdate_response (s : State) : (forcedUpdate s).response = s.response := rfl
@[simp] theorem forcedUpdate_schedule (s : State) : (forcedUpdate s).schedule = s.schedule := rfl
@[simp] theorem forcedUpdate_word (s : State) (r : WordReg) : (forcedUpdate s).word r = s.word r := by cases r <;> rfl

/-! ## The timer's reset -/

@[simp] theorem resetTimer_life (s : State) : (resetTimer s).life = s.life := rfl
@[simp] theorem resetTimer_chset (s : State) : (resetTimer s).chset = s.chset := rfl
@[simp] theorem resetTimer_cr1 (s : State) : (resetTimer s).cr1 = Config.resetWord .cr1 := rfl
@[simp] theorem resetTimer_ccmr1 (s : State) : (resetTimer s).ccmr1 = Config.resetWord .ccmr1 := rfl
@[simp] theorem resetTimer_ccmr2 (s : State) : (resetTimer s).ccmr2 = Config.resetWord .ccmr2 := rfl
@[simp] theorem resetTimer_ccer (s : State) : (resetTimer s).ccer = Config.resetWord .ccer := rfl
@[simp] theorem resetTimer_bdtr (s : State) : (resetTimer s).bdtr = Config.resetWord .bdtr := rfl
@[simp] theorem resetTimer_psc (s : State) : (resetTimer s).psc = Config.resetPsc := rfl
@[simp] theorem resetTimer_arr (s : State) : (resetTimer s).arr = Config.resetArr := rfl
@[simp] theorem resetTimer_ccr (s : State) : (resetTimer s).ccr = CompareFile.reset := rfl
@[simp] theorem resetTimer_pscSh (s : State) : (resetTimer s).pscSh = Config.resetPsc := rfl
@[simp] theorem resetTimer_arrSh (s : State) : (resetTimer s).arrSh = Config.resetArr := rfl
@[simp] theorem resetTimer_ccrSh (s : State) : (resetTimer s).ccrSh = CompareFile.reset := rfl
@[simp] theorem resetTimer_cnt (s : State) : (resetTimer s).cnt = 0 := rfl
@[simp] theorem resetTimer_pscnt (s : State) : (resetTimer s).pscnt = 0 := rfl
@[simp] theorem resetTimer_clkRate (s : State) : (resetTimer s).clkRate = s.clkRate := rfl
@[simp] theorem resetTimer_targetFreq (s : State) : (resetTimer s).targetFreq = s.targetFreq := rfl
@[simp] theorem resetTimer_response (s : State) : (resetTimer s).response = s.response := rfl
@[simp] theorem resetTimer_schedule (s : State) : (resetTimer s).schedule = s.schedule := rfl
@[simp] theorem resetTimer_word (s : State) (r : WordReg) : (resetTimer s).word r = Config.resetWord r := by cases r <;> rfl

/-! ## The compare file -/

@[simp] theorem CompareFile.get_set_same (f : CompareFile) (ch : Channel) (v : Half) :
    (f.set ch v).get ch = v := by cases ch <;> rfl

theorem CompareFile.get_set_apart (f : CompareFile) (ch ch' : Channel) (v : Half) (h : ch' ≠ ch) :
    (f.set ch v).get ch' = f.get ch' := by
  cases ch <;> cases ch' <;> first | rfl | exact absurd rfl h

@[simp] theorem CompareFile.set_set_same (f : CompareFile) (ch : Channel) (v v' : Half) :
    (f.set ch v).set ch v' = f.set ch v' := by cases ch <;> rfl

/-- The counter agent writes `PSCNT`, `CNT` and the shadow copies only (R230). -/
theorem tick_frame (s : State) :
    tick s = { s with
      pscSh := (tick s).pscSh, arrSh := (tick s).arrSh, ccrSh := (tick s).ccrSh
      cnt := (tick s).cnt, pscnt := (tick s).pscnt } := by
  unfold tick count
  split
  · rfl
  · split
    · rfl
    · split <;> rfl

@[simp] theorem tick_life (s : State) : (tick s).life = s.life := by rw [tick_frame]
@[simp] theorem tick_chset (s : State) : (tick s).chset = s.chset := by rw [tick_frame]
@[simp] theorem tick_cr1 (s : State) : (tick s).cr1 = s.cr1 := by rw [tick_frame]
@[simp] theorem tick_ccmr1 (s : State) : (tick s).ccmr1 = s.ccmr1 := by rw [tick_frame]
@[simp] theorem tick_ccmr2 (s : State) : (tick s).ccmr2 = s.ccmr2 := by rw [tick_frame]
@[simp] theorem tick_ccer (s : State) : (tick s).ccer = s.ccer := by rw [tick_frame]
@[simp] theorem tick_bdtr (s : State) : (tick s).bdtr = s.bdtr := by rw [tick_frame]
@[simp] theorem tick_psc (s : State) : (tick s).psc = s.psc := by rw [tick_frame]
@[simp] theorem tick_arr (s : State) : (tick s).arr = s.arr := by rw [tick_frame]
@[simp] theorem tick_ccr (s : State) : (tick s).ccr = s.ccr := by rw [tick_frame]
@[simp] theorem tick_clkRate (s : State) : (tick s).clkRate = s.clkRate := by rw [tick_frame]
@[simp] theorem tick_targetFreq (s : State) : (tick s).targetFreq = s.targetFreq := by rw [tick_frame]
@[simp] theorem tick_response (s : State) : (tick s).response = s.response := by rw [tick_frame]
@[simp] theorem tick_schedule (s : State) : (tick s).schedule = s.schedule := by rw [tick_frame]
@[simp] theorem tick_word (s : State) (r : WordReg) : (tick s).word r = s.word r := by cases r <;> simp [State.word]

end Sys2Proof.Machine
end

