-- ==== Sys2Proof/Laws/Ops.lean ====
section
/-! SUPPORT. One lemma for each shared operation, saying everything it can do. -/

namespace Sys2Proof.Machine

/-! ## Fields read after updates -/

/-- A field depends on its register's word alone. -/
theorem field_eq_of_word {s t : State} {f : BitField} (h : t.word f.reg = s.word f.reg) :
    t.field f = s.field f := by simp [State.field, h]

@[simp] theorem field_respond (st : Status) (d : Word) (s : State) (f : BitField) :
    (respond st d s).field f = s.field f := field_eq_of_word (by simp)

@[simp] theorem field_raiseFault (e : ErrorCode) (s : State) (f : BitField) :
    (raiseFault e s).field f = s.field f := field_eq_of_word (by simp)

@[simp] theorem field_drivePorts (c g : BitVec Config.operandWidth) (s : State) (f : BitField) :
    (drivePorts c g s).field f = s.field f := field_eq_of_word (by simp)

@[simp] theorem field_tick (s : State) (f : BitField) : (tick s).field f = s.field f :=
  field_eq_of_word (by simp)

/-- A one-bit field is its bit. -/
theorem field_one_bit (s : State) (f : BitField) (h : f.len = 1) :
    s.field f = if (s.word f.reg).getLsbD f.lo then 1 else 0 := by
  have one : ∀ k < 32, (1 : Word).getLsbD k = decide (k = 0) := by decide
  apply BitVec.eq_of_getLsbD_eq
  intro k hk
  rw [State.field, getLsbD_getField, h]
  by_cases hk' : k = 0
  · subst hk'
    rw [Nat.add_zero]
    cases (s.word f.reg).getLsbD f.lo <;> decide
  · rw [show decide (k < 1 ∧ k < 32) = false by simp; omega, Bool.false_and]
    split
    · rw [one k hk, decide_eq_false hk']
    · simp

/-- A one-bit field is 0 exactly when its bit is clear. -/
theorem field_eq_zero_iff (s : State) (f : BitField) (h : f.len = 1) :
    s.field f = 0 ↔ (s.word f.reg).getLsbD f.lo = false := by
  rw [field_one_bit s f h]
  cases (s.word f.reg).getLsbD f.lo <;> decide

/-- A one-bit field is 1 exactly when its bit is set. -/
theorem field_eq_one_iff (s : State) (f : BitField) (h : f.len = 1) :
    s.field f = 1 ↔ (s.word f.reg).getLsbD f.lo = true := by
  rw [field_one_bit s f h]
  cases (s.word f.reg).getLsbD f.lo <;> decide

/-- A field just written reads as the low bits of what was written. -/
theorem field_setFieldTo_same (s : State) (f : BitField) (v : Word) (h : f.lo + f.len ≤ 32) :
    (s.setFieldTo f v).field f = v &&& fieldMask 0 f.len := by
  simp [State.field, State.setFieldTo, getField_setField_same _ _ _ _ h]

/-- A field of another register, or one apart in the same register, reads as before. -/
theorem field_setFieldTo_apart (s : State) (f g : BitField) (v : Word)
    (h : g.reg ≠ f.reg ∨ f.lo + f.len ≤ g.lo ∨ g.lo + g.len ≤ f.lo) :
    (s.setFieldTo f v).field g = s.field g := by
  by_cases hr : g.reg = f.reg
  · have h' := h.resolve_left (not_not_intro hr)
    simp [State.field, State.setFieldTo, hr, getField_setField_apart _ _ _ _ _ _ h']
  · simp [State.field, State.setFieldTo, hr]

/-- A write of a field that lies inside the named bits keeps the unnamed ones (R48). -/
theorem unnamed_setFieldTo (s : State) (f : BitField) (v : Word) (r : WordReg)
    (h : fieldMask f.lo f.len &&& ~~~ namedBits f.reg = 0) :
    (s.setFieldTo f v).word r &&& ~~~ namedBits r = s.word r &&& ~~~ namedBits r := by
  by_cases hr : r = f.reg
  · subst hr
    simp [State.setFieldTo, setField_outside _ _ _ _ _ h]
  · simp [State.setFieldTo, hr]

/-! ## Checks -/

theorem unlessFaulted_of_faulted {body : State → State} {s : State} {e : ErrorCode}
    (h : s.life = .faulted e) : unlessFaulted body s = respond .faulted 0 s := by
  simp [unlessFaulted, h, Life.isFaulted]

theorem unlessFaulted_of_not_faulted {body : State → State} {s : State}
    (h : s.life.isFaulted = false) : unlessFaulted body s = body s := by
  simp [unlessFaulted, h]

/-- The four ways a channel command ends (R190, R265). -/
theorem channelCommand_cases (ch : Channel) (body : State → State) (s : State) :
    (s.life.isFaulted = true ∧ channelCommand ch body s = respond .faulted 0 s) ∨
    (s.life = .unconfigured ∧ channelCommand ch body s = raiseFault .notInitialised s) ∨
    (s.life = .running ∧ s.bound ch = false ∧
      channelCommand ch body s = raiseFault .resourceConflict s) ∨
    (s.life = .running ∧ s.bound ch = true ∧ channelCommand ch body s = body s) := by
  cases hl : s.life with
  | unconfigured => simp [channelCommand, unlessFaulted, channelCheck, hl, Life.isFaulted, refuse]
  | running =>
    cases hb : s.bound ch <;>
      simp [channelCommand, unlessFaulted, channelCheck, hl, hb, Life.isFaulted, refuse]
  | faulted e => simp [channelCommand, unlessFaulted, hl, Life.isFaulted]

theorem channelCommand_of_running {ch : Channel} {body : State → State} {s : State}
    (hl : s.life = .running) (hb : s.bound ch = true) : channelCommand ch body s = body s := by
  simp [channelCommand, unlessFaulted, channelCheck, hl, hb, Life.isFaulted]

/-- The ways INIT ends after the FAULTED check (R160 to R162). -/
theorem initWith_cases (c f : Nat) (mask : BitVec 4) (s : State) :
    ((s.life = .running ∨ mask ∉ Config.supportedSets) ∧
      initWith c f mask s = raiseFault .resourceConflict s) ∨
    (s.life ≠ .running ∧ mask ∈ Config.supportedSets ∧ ∃ e, resolve c f = .err e ∧
      initWith c f mask s = raiseFault e s) ∨
    (s.life ≠ .running ∧ mask ∈ Config.supportedSets ∧ ∃ p r, resolve c f = .ok p r ∧
      initWith c f mask s = handOver mask (initWrites mask p r s)) := by
  by_cases hl : s.life = .running
  · simp [initWith, hl, refuse]
  · by_cases hm : mask ∈ Config.supportedSets
    · cases hr : resolve c f <;> simp [initWith, hl, hm, hr]
    · simp [initWith, hl, hm, refuse]

/-- What steps 1 to 8 leave for the one supported set (R163 to R170). -/
theorem initWrites_supported (psc arr : Half) (s : State) :
    initWrites 0b1111#4 psc arr s =
      { resetTimer s with
        cr1 := 0x81#32, ccmr1 := 0x6868#32, ccmr2 := 0x6868#32, bdtr := 0x8000#32
        psc := psc, pscSh := psc, arr := arr, arrSh := arr } := by
  simp [initWrites, channels, initChannel, regWrite, resetTimer, forcedUpdate, updateEvent,
    State.setFieldTo, State.setWord, State.word, State.field, getField, setField, fieldMask,
    BitField.cen, BitField.arpe, BitField.ossr, BitField.moe, BitField.ocm, BitField.ocpe,
    Channel.maskBit, Config.ocmPwm1, Config.resetWord]

/-! ## Steps -/

/-- Every command answers a next state: no instruction of the block stops the machine. -/
theorem exec_next (i : Instr) (s : State) : ∃ t, exec i s = .next t := by
  cases i <;> exact ⟨_, rfl⟩

theorem presentWord_next (w : Word) (s : State) : ∃ t, presentWord w s = .next t := by
  unfold presentWord
  split
  · exact exec_next _ _
  · exact ⟨_, rfl⟩

/-- Every step answers a next state (R261: every error is a status, none a stop). -/
theorem step_next (s : State) : ∃ t, step s = .next t := by
  unfold step performMove
  split
  · exact presentWord_next _ _
  · exact ⟨_, rfl⟩
  · exact ⟨_, rfl⟩

/-- The ways a TICK ends (R230). -/
theorem tick_cases (s : State) :
    (s.field .cen = 0 ∧ tick s = s) ∨
    (s.field .cen ≠ 0 ∧ s.pscnt < s.pscSh ∧ tick s = { s with pscnt := s.pscnt + 1 }) ∨
    (s.field .cen ≠ 0 ∧ s.pscSh ≤ s.pscnt ∧ s.cnt = s.arrSh ∧
      tick s = { s with pscnt := 0, cnt := 0, pscSh := s.psc, arrSh := s.arr, ccrSh := s.ccr }) ∨
    (s.field .cen ≠ 0 ∧ s.pscSh ≤ s.pscnt ∧ s.cnt ≠ s.arrSh ∧
      tick s = { s with pscnt := 0, cnt := s.cnt + 1 }) := by
  unfold tick count
  split
  · simp_all
  · split
    · simp_all
    · split <;> simp_all [updateEvent]

/-- What one command of the table can do to a state that is not faulted: the effect of each
instruction, or an error that changes the lifecycle alone. -/
theorem exec_cases (i : Instr) (s t : State) (h : exec i s = .next t) :
    (s.life.isFaulted = true ∧ t = respond .faulted 0 s) ∨
    (s.life.isFaulted = false ∧ ∃ e, t = raiseFault e s) ∨
    (s.life.isFaulted = false ∧ ∃ st d, t = respond st d s) ∨
    (s.life = .unconfigured ∧ ∃ p r,
      t = handOver 0b1111#4 (initWrites 0b1111#4 p r s)) ∨
    (s.life = .running ∧ ∃ ch, s.bound ch = true ∧
      (t = enableEffect ch s ∨ t = disableEffect ch s ∨ ∃ v, t = setDutyEffect ch v s)) := by
  have hr : s.life = .running → s.life.isFaulted = false := by intro h; simp [h, Life.isFaulted]
  have hu : s.life = .unconfigured → s.life.isFaulted = false := by
    intro h; simp [h, Life.isFaulted]
  have chan (ch : Channel) (body : State → State)
      (he : t = channelCommand ch body s) :
      (s.life.isFaulted = true ∧ t = respond .faulted 0 s) ∨
      (s.life.isFaulted = false ∧ ∃ e, t = raiseFault e s) ∨
      (s.life = .running ∧ s.bound ch = true ∧ t = body s) := by
    rcases channelCommand_cases ch body s with ⟨a, b⟩ | ⟨a, b⟩ | ⟨a, _, b⟩ | ⟨a, c, b⟩
    · exact .inl ⟨a, he.trans b⟩
    · exact .inr (.inl ⟨hu a, _, he.trans b⟩)
    · exact .inr (.inl ⟨hr a, _, he.trans b⟩)
    · exact .inr (.inr ⟨a, c, he.trans b⟩)
  cases i with
  | resolve =>
    simp only [exec, execResolve, Host.Outcome.next.injEq] at h
    cases hf : s.life.isFaulted with
    | true => exact .inl ⟨rfl, by simpa [unlessFaulted, hf] using h.symm⟩
    | false =>
      rw [unlessFaulted_of_not_faulted hf] at h
      refine .inr (.inr (.inl ⟨rfl, ?_⟩))
      unfold resolveResponse at h
      split at h <;> exact ⟨_, _, h.symm⟩
  | init mask =>
    simp only [exec, execInit, Host.Outcome.next.injEq] at h
    cases hf : s.life.isFaulted with
    | true => exact .inl ⟨rfl, by simpa [unlessFaulted, hf] using h.symm⟩
    | false =>
      rw [unlessFaulted_of_not_faulted hf] at h
      rcases initWith_cases s.clkRate.toNat s.targetFreq.toNat mask s with
        ⟨_, b⟩ | ⟨_, _, e, _, b⟩ | ⟨a, m, p, r, _, b⟩
      · exact .inr (.inl ⟨rfl, _, h.symm.trans b⟩)
      · exact .inr (.inl ⟨rfl, _, h.symm.trans b⟩)
      · have hm : mask = 0b1111#4 := by simpa [Config.supportedSets] using m
        subst hm
        refine .inr (.inr (.inr (.inl ⟨?_, p, r, h.symm.trans b⟩)))
        cases hl : s.life <;> simp_all [Life.isFaulted]
  | enable ch =>
    simp only [exec, execEnable, Host.Outcome.next.injEq] at h
    rcases chan ch _ h.symm with a | a | ⟨a, b, c⟩
    · exact .inl a
    · exact .inr (.inl a)
    · exact .inr (.inr (.inr (.inr ⟨a, ch, b, .inl c⟩)))
  | disable ch =>
    simp only [exec, execDisable, Host.Outcome.next.injEq] at h
    rcases chan ch _ h.symm with a | a | ⟨a, b, c⟩
    · exact .inl a
    · exact .inr (.inl a)
    · exact .inr (.inr (.inr (.inr ⟨a, ch, b, .inr (.inl c)⟩)))
  | getDuty ch =>
    simp only [exec, execGetDuty, Host.Outcome.next.injEq] at h
    rcases chan ch _ h.symm with a | a | ⟨a, b, c⟩
    · exact .inl a
    · exact .inr (.inl a)
    · exact .inr (.inr (.inl ⟨hr a, _, _, c⟩))
  | setDuty ch v =>
    simp only [exec, execSetDuty, Host.Outcome.next.injEq] at h
    rcases chan ch _ h.symm with a | a | ⟨a, b, c⟩
    · exact .inl a
    · exact .inr (.inl a)
    · exact .inr (.inr (.inr (.inr ⟨a, ch, b, .inr (.inr ⟨v, c⟩)⟩)))
  | getMaxDuty ch =>
    simp only [exec, execGetMaxDuty, Host.Outcome.next.injEq] at h
    rcases chan ch _ h.symm with a | a | ⟨a, b, c⟩
    · exact .inl a
    · exact .inr (.inl a)
    · exact .inr (.inr (.inl ⟨hr a, _, _, c⟩))

/-- What one step can do, the schedule's change aside: tick, drive the ports, or answer a command
word as `exec_cases` says. -/
theorem step_cases (s t : State) (h : step s = .next t) :
    t = tick (nextMove s).2 ∨
    (∃ c f, t = drivePorts c f (nextMove s).2) ∨
    (∃ i, exec i (nextMove s).2 = .next t) ∨
    t = illegalCommand (nextMove s).2 := by
  unfold step performMove at h
  split at h
  · unfold presentWord at h
    split at h
    · exact .inr (.inr (.inl ⟨_, h⟩))
    · exact .inr (.inr (.inr (Host.Outcome.next.inj h).symm))
  · exact .inr (.inl ⟨_, _, (Host.Outcome.next.inj h).symm⟩)
  · exact .inl (Host.Outcome.next.inj h).symm

/-- Taking a move off the schedule changes nothing else. -/
theorem nextMove_frame (s : State) : (nextMove s).2 = { s with schedule := s.schedule.tail } := by
  cases hs : s.schedule <;> simp [nextMove, hs]
  cases s
  simp_all

end Sys2Proof.Machine
end

