-- ==== Sys2Proof/Laws/Effects.lean ====
section
/-! SUPPORT. What the effects of the commands and of INIT leave in each field, for proofs that follow
exec_cases and step_cases. -/

namespace Sys2Proof.Machine

/-- ENABLE's effect touches CCER and the response only. -/
theorem enableEffect_frame (ch : Channel) (s : State) :
    enableEffect ch s =
      { s with ccer := (enableEffect ch s).ccer, response := some ⟨.ok, 0⟩ } := by
  cases ch <;> rfl

/-- DISABLE's effect touches CCER and the response only. -/
theorem disableEffect_frame (ch : Channel) (s : State) :
    disableEffect ch s =
      { s with ccer := (disableEffect ch s).ccer, response := some ⟨.ok, 0⟩ } := by
  cases ch <;> rfl

/-- SET_DUTY's effect in full (R45, R205). -/
theorem setDutyEffect_eq (ch : Channel) (v : Half) (s : State) :
    setDutyEffect ch v s =
      { s with
        ccr := s.ccr.set ch v
        ccrSh := if s.field (.ocpe ch) = 0 then s.ccrSh.set ch v else s.ccrSh
        response := some ⟨.ok, 0⟩ } := by
  simp only [setDutyEffect, regWrite, respond]
  split <;> simp

@[simp] theorem enableEffect_life (ch : Channel) (s : State) :
    (enableEffect ch s).life = s.life := by rw [enableEffect_frame]

@[simp] theorem disableEffect_life (ch : Channel) (s : State) :
    (disableEffect ch s).life = s.life := by rw [disableEffect_frame]

@[simp] theorem setDutyEffect_life (ch : Channel) (v : Half) (s : State) :
    (setDutyEffect ch v s).life = s.life := by rw [setDutyEffect_eq]

/-- SET_DUTY writes no word register. -/
@[simp] theorem field_setDutyEffect (ch : Channel) (v : Half) (s : State) (f : BitField) :
    (setDutyEffect ch v s).field f = s.field f :=
  field_eq_of_word (by rw [setDutyEffect_eq]; cases f.reg <;> rfl)

/-- ENABLE keeps every field of a register other than CCER. -/
theorem field_enableEffect (ch : Channel) (s : State) (f : BitField) (h : f.reg ≠ .ccer) :
    (enableEffect ch s).field f = s.field f :=
  field_eq_of_word (by rw [enableEffect_frame]; cases hr : f.reg <;> first | rfl | exact absurd hr h)

/-- DISABLE keeps every field of a register other than CCER. -/
theorem field_disableEffect (ch : Channel) (s : State) (f : BitField) (h : f.reg ≠ .ccer) :
    (disableEffect ch s).field f = s.field f :=
  field_eq_of_word (by rw [disableEffect_frame]; cases hr : f.reg <;> first | rfl | exact absurd hr h)

/-- The bits of CCER after ENABLE (R195). -/
theorem enableEffect_ccer_bit (ch : Channel) (s : State) (k : Nat) (hk : k < 32) :
    (enableEffect ch s).ccer.getLsbD k =
      if k = 4 * (ch.number - 1) then true
      else if k = 4 * (ch.number - 1) + 2 ∧ ch ≠ .ch4 then false
      else s.ccer.getLsbD k := by
  cases ch <;>
    simp [enableEffect, clearCcne, BitField.ccne, BitField.cce, regWrite, respond,
      State.setFieldTo, State.setWord, State.word, getLsbD_setField_one _ _ _ k hk, Channel.number] <;>
    grind

/-- The bits of CCER after DISABLE (R198). -/
theorem disableEffect_ccer_bit (ch : Channel) (s : State) (k : Nat) (hk : k < 32) :
    (disableEffect ch s).ccer.getLsbD k =
      if k = 4 * (ch.number - 1) then false else s.ccer.getLsbD k := by
  cases ch <;>
    simp [disableEffect, BitField.cce, regWrite, respond, State.setFieldTo, State.setWord,
      State.word, getLsbD_setField_one _ _ _ k hk, Channel.number] <;>
    grind

/-- Step 3 for one channel writes CCMR1 and CCMR2 only (R165). -/
theorem initChannel_frame (mask : BitVec 4) (s : State) (ch : Channel) :
    initChannel mask s ch =
      { s with ccmr1 := (initChannel mask s ch).ccmr1, ccmr2 := (initChannel mask s ch).ccmr2 } := by
  unfold initChannel
  split
  · cases ch <;> rfl
  · rfl

/-- The mode fields after step 3 for one channel (R165). -/
theorem initChannel_ocm (mask : BitVec 4) (s : State) (ch ch' : Channel) :
    (initChannel mask s ch).field (.ocm ch') =
      if ch' = ch ∧ mask.getLsbD ch.maskBit = true then Config.ocmPwm1 else s.field (.ocm ch') := by
  unfold initChannel
  split
  · rename_i hm
    cases ch <;> cases ch' <;> simp only [regWrite, hm, and_true, reduceCtorEq, if_false, if_true] <;>
      rw [field_setFieldTo_apart _ _ _ _ (by decide)] <;>
      first
      | exact field_setFieldTo_same _ _ _ (by decide)
      | exact field_setFieldTo_apart _ _ _ _ (by decide)
  · simp_all

/-- The preload bits after step 3 for one channel (R165). -/
theorem initChannel_ocpe (mask : BitVec 4) (s : State) (ch ch' : Channel) :
    (initChannel mask s ch).field (.ocpe ch') =
      if ch' = ch ∧ mask.getLsbD ch.maskBit = true then 1 else s.field (.ocpe ch') := by
  unfold initChannel
  split
  · rename_i hm
    by_cases h : ch' = ch
    · subst h
      simp only [regWrite, hm, and_self, if_true]
      cases ch' <;> exact field_setFieldTo_same _ _ _ (by decide)
    · simp only [regWrite, h, false_and, if_false]
      have apart : (BitField.ocpe ch').reg ≠ (BitField.ocpe ch).reg ∨
          (BitField.ocpe ch).lo + (BitField.ocpe ch).len ≤ (BitField.ocpe ch').lo ∨
          (BitField.ocpe ch').lo + (BitField.ocpe ch').len ≤ (BitField.ocpe ch).lo := by
        revert h; cases ch <;> cases ch' <;> decide
      rw [field_setFieldTo_apart _ _ _ _ apart,
        field_setFieldTo_apart _ _ _ _ (by cases ch <;> cases ch' <;> decide)]
  · simp_all

/-- Step 3 for one channel keeps every bit outside the named ones (R48, R165). -/
theorem initChannel_unnamed (mask : BitVec 4) (s : State) (ch : Channel) (r : WordReg) :
    (initChannel mask s ch).word r &&& ~~~ namedBits r = s.word r &&& ~~~ namedBits r := by
  unfold initChannel
  split
  · simp only [regWrite]
    rw [unnamed_setFieldTo _ _ _ _ (by cases ch <;> decide),
      unnamed_setFieldTo _ _ _ _ (by cases ch <;> decide)]
  · rfl

/-- What INIT's writes and step 9 leave for the one supported set, in full (R163 to R171). -/
theorem handOver_initWrites (p r : Half) (s : State) :
    handOver 0b1111#4 (initWrites 0b1111#4 p r s) =
      { resetTimer s with
        cr1 := 0x81#32, ccmr1 := 0x6868#32, ccmr2 := 0x6868#32, bdtr := 0x8000#32
        psc := p, pscSh := p, arr := r, arrSh := r
        chset := 0b1111#4, life := .running, response := some ⟨.ok, 0x0F#32⟩ } := by
  rw [initWrites_supported]
  rfl

/-- The word registers after INIT (R163 to R170). -/
theorem handOver_initWrites_word (p q : Half) (s : State) (r : WordReg) :
    (handOver 0b1111#4 (initWrites 0b1111#4 p q s)).word r =
      match r with
      | .cr1 => 0x81#32
      | .ccmr1 => 0x6868#32
      | .ccmr2 => 0x6868#32
      | .ccer => 0x0#32
      | .bdtr => 0x8000#32 := by
  rw [handOver_initWrites]
  cases r <;> rfl

/-- A field of the state after INIT, from its register's word. -/
theorem field_of_word {s : State} {f : BitField} {w : Word} (h : s.word f.reg = w) :
    s.field f = getField w f.lo f.len := by rw [State.field, h]

/-- A faulted block answers every command with FAULTED and nothing else (R264). -/
theorem exec_of_faulted (i : Instr) {s : State} {e : ErrorCode} (h : s.life = .faulted e) :
    exec i s = .next (respond .faulted 0 s) := by
  cases i <;>
    simp [exec, execResolve, execInit, execEnable, execDisable, execGetDuty, execSetDuty,
      execGetMaxDuty, channelCommand, unlessFaulted, h, Life.isFaulted]

theorem isFaulted_iff {l : Life} : l.isFaulted = true ↔ ∃ e, l = .faulted e := by
  cases l <;> simp [Life.isFaulted]

/-- Taking a move off the schedule keeps the lifecycle. -/
@[simp] theorem nextMove_life (s : State) : (nextMove s).2.life = s.life := by rw [nextMove_frame]

/-- Taking a move off the schedule keeps every word register. -/
@[simp] theorem nextMove_word (s : State) (r : WordReg) : (nextMove s).2.word r = s.word r := by
  rw [nextMove_frame]; cases r <;> rfl

/-- Taking a move off the schedule keeps every field. -/
@[simp] theorem nextMove_field (s : State) (f : BitField) :
    (nextMove s).2.field f = s.field f := field_eq_of_word (by simp)

/-! ## Runs of TICKs -/

theorem ticks_add (m n : Nat) (s : State) : ticks (m + n) s = ticks n (ticks m s) := by
  induction m generalizing s with
  | zero => simp [ticks]
  | succ m ih => rw [Nat.succ_add]; exact ih (tick s)

/-- One TICK more, made last. -/
theorem ticks_succ (n : Nat) (s : State) : ticks (n + 1) s = tick (ticks n s) :=
  ticks_add n 1 s

@[simp] theorem ticks_field (n : Nat) (s : State) (f : BitField) :
    (ticks n s).field f = s.field f := by
  induction n with
  | zero => rfl
  | succ n ih => rw [ticks_succ, field_tick, ih]

end Sys2Proof.Machine
end

