-- ==== Sys2Proof/Laws/Encoding.lean ====
section
/-! SUPPORT. The four fields of an encoded word (R101, R113), and a word from its four fields. -/

namespace Sys2Proof

theorem getLsbD_enc (op : BitVec 4) (ch : Channel) (d : Half) (k : Nat) :
    (enc op ch d).getLsbD k =
      ((decide (k < 32) && decide (28 ≤ k) && op.getLsbD (k - 28)) ||
       (decide (k < 32) && decide (26 ≤ k) && ch.field.getLsbD (k - 26)) || d.getLsbD k) := by
  simp only [enc, BitVec.getLsbD_or, BitVec.getLsbD_shiftLeft, BitVec.getLsbD_setWidth]
  by_cases h : k < 32
  · have h₁ : decide (k < 28) = !decide (28 ≤ k) := by
      by_cases h' : 28 ≤ k <;> simp [h', Nat.not_lt.mpr, Nat.lt_of_not_le]
    have h₂ : decide (k < 26) = !decide (26 ≤ k) := by
      by_cases h' : 26 ≤ k <;> simp [h', Nat.not_lt.mpr, Nat.lt_of_not_le]
    simp [h, h₁, h₂, show k - 28 < 32 by omega, show k - 26 < 32 by omega]
  · simp [h, BitVec.getLsbD_of_ge d k (by omega)]

@[simp] theorem opField_enc (op : BitVec 4) (ch : Channel) (d : Half) :
    opField (enc op ch d) = op := by
  apply BitVec.eq_of_getLsbD_eq
  intro k hk
  simp only [opField, BitVec.getLsbD_extractLsb', getLsbD_enc]
  simp [hk, show 28 + k < 32 by omega, show 28 + k - 26 = k + 2 by omega,
    show 26 ≤ 28 + k by omega, BitVec.getLsbD_of_ge d (28 + k) (by omega)]

@[simp] theorem chField_enc (op : BitVec 4) (ch : Channel) (d : Half) :
    chField (enc op ch d) = ch.field := by
  apply BitVec.eq_of_getLsbD_eq
  intro k hk
  simp only [chField, BitVec.getLsbD_extractLsb', getLsbD_enc]
  simp [hk, show 26 + k < 32 by omega, show ¬ 28 ≤ 26 + k by omega,
    BitVec.getLsbD_of_ge d (26 + k) (by omega)]

@[simp] theorem rsvField_enc (op : BitVec 4) (ch : Channel) (d : Half) :
    rsvField (enc op ch d) = 0 := by
  apply BitVec.eq_of_getLsbD_eq
  intro k hk
  simp only [rsvField, BitVec.getLsbD_extractLsb', getLsbD_enc]
  simp [hk, show ¬ 28 ≤ 16 + k by omega, show ¬ 26 ≤ 16 + k by omega]

@[simp] theorem dataField_enc (op : BitVec 4) (ch : Channel) (d : Half) :
    dataField (enc op ch d) = d := by
  apply BitVec.eq_of_getLsbD_eq
  intro k hk
  simp only [dataField, BitVec.getLsbD_extractLsb', getLsbD_enc]
  simp [hk, show ¬ 28 ≤ k by omega, show ¬ 26 ≤ k by omega]

@[simp] theorem Channel.ofField_field (ch : Channel) : Channel.ofField ch.field = ch := by
  cases ch <;> rfl

theorem Channel.field_ofField : ∀ f : BitVec 2, (Channel.ofField f).field = f := by decide

/-- A word whose reserved field is zero is determined by its other fields (R101). -/
theorem eq_enc_of_fields (w : Word) (h : rsvField w = 0) :
    w = enc (opField w) (Channel.ofField (chField w)) (dataField w) := by
  apply BitVec.eq_of_getLsbD_eq
  intro k hk
  rw [getLsbD_enc, Channel.field_ofField]
  simp only [opField, chField, dataField, BitVec.getLsbD_extractLsb']
  by_cases h₁ : 28 ≤ k
  · simp [hk, h₁, show k - 28 < 4 by omega, show 28 + (k - 28) = k by omega,
      show ¬ k - 26 < 2 by omega, show ¬ k < 16 by omega]
  · by_cases h₂ : 26 ≤ k
    · simp [hk, h₁, h₂, show k - 26 < 2 by omega, show 26 + (k - 26) = k by omega,
        show ¬ k < 16 by omega]
    · by_cases h₃ : k < 16
      · simp [hk, h₁, h₂, h₃]
      · have hb := congrArg (fun x : BitVec 10 => x.getLsbD (k - 16)) h
        simp only [rsvField, BitVec.getLsbD_extractLsb'] at hb
        simp [show k - 16 < 10 by omega, show 16 + (k - 16) = k by omega] at hb
        simp [h₁, h₂, h₃, hb]

end Sys2Proof
end

