-- ==== Sys2Proof/Laws/Outputs.lean ====
section
/-! SUPPORT. What the outputs depend on, and the enable bits after ENABLE and DISABLE. -/

namespace Sys2Proof

open Sys2Proof.Machine

/-- The mode fields lie in no register that ENABLE and DISABLE write. -/
theorem ocm_not_in_ccer (ch : Channel) : (BitField.ocm ch).reg ≠ .ccer := by cases ch <;> decide

/-- The reference level depends on the mode, the count and the compare value in use. -/
theorem ocref_congr {s t : State} (draw : Level) (ch : Channel)
    (mode : t.field (.ocm ch) = s.field (.ocm ch)) (cnt : t.cnt = s.cnt)
    (ccr : t.ccrSh = s.ccrSh) : ocref draw ch t = ocref draw ch s := by
  simp only [ocref, mode, cnt, ccr]

/-- The main output depends on the reference level, MOE and the channel's enable bit. -/
theorem out_congr {s t : State} (draw : Level) (ch : Channel)
    (ref : ocref draw ch t = ocref draw ch s) (moe : t.field .moe = s.field .moe)
    (cce : t.field (.cce ch) = s.field (.cce ch)) : out draw ch t = out draw ch s := by
  simp only [out, ref, moe, cce]

/-- The complementary output depends on the reference level, MOE and the channel's complementary
bit. -/
theorem outn_congr {s t : State} (draw : Level) (ch : Channel)
    (ref : ocref draw ch t = ocref draw ch s) (moe : t.field .moe = s.field .moe)
    (ccne : ∀ f, BitField.ccne ch = some f → t.field f = s.field f) :
    outn draw ch t = outn draw ch s := by
  unfold outn
  split
  · rfl
  · rename_i f hf
    rw [ref, moe, ccne f hf]

/-- Two states with the same fields, count and compare values in use show the same outputs. -/
theorem sameOutputs_of_fields {s t : State} (fields : ∀ f, t.field f = s.field f)
    (cnt : t.cnt = s.cnt) (ccr : t.ccrSh = s.ccrSh) : SameOutputs s t := by
  intro draw ch
  have ref := ocref_congr draw ch (fields _) cnt ccr
  exact ⟨out_congr draw ch ref (fields _) (fields _),
    outn_congr draw ch ref (fields _) (fun f _ => fields f)⟩

/-- ENABLE keeps every reference level. -/
theorem ocref_enableEffect (draw : Level) (ch ch' : Channel) (s : State) :
    ocref draw ch' (enableEffect ch s) = ocref draw ch' s :=
  ocref_congr draw ch' (field_enableEffect _ _ _ (ocm_not_in_ccer ch'))
    (by rw [enableEffect_frame]) (by rw [enableEffect_frame])

/-- DISABLE keeps every reference level. -/
theorem ocref_disableEffect (draw : Level) (ch ch' : Channel) (s : State) :
    ocref draw ch' (disableEffect ch s) = ocref draw ch' s :=
  ocref_congr draw ch' (field_disableEffect _ _ _ (ocm_not_in_ccer ch'))
    (by rw [disableEffect_frame]) (by rw [disableEffect_frame])

/-- The enable bits after ENABLE (R195). -/
theorem cce_enableEffect (ch ch' : Channel) (s : State) :
    (enableEffect ch s).field (.cce ch') = if ch' = ch then 1 else s.field (.cce ch') := by
  rw [enableEffect, field_respond, clearCcne]
  cases ch <;> cases ch' <;> simp only [BitField.ccne, regWrite, reduceCtorEq, if_false, if_true] <;>
    first
    | exact field_setFieldTo_same _ _ _ (by decide)
    | (rw [field_setFieldTo_apart _ _ _ _ (by decide)]; exact field_setFieldTo_same _ _ _ (by decide))
    | (rw [field_setFieldTo_apart _ _ _ _ (by decide), field_setFieldTo_apart _ _ _ _ (by decide)])
    | (rw [field_setFieldTo_apart _ _ _ _ (by decide)])

/-- The enable bits after DISABLE (R198). -/
theorem cce_disableEffect (ch ch' : Channel) (s : State) :
    (disableEffect ch s).field (.cce ch') = if ch' = ch then 0 else s.field (.cce ch') := by
  rw [disableEffect, field_respond]
  cases ch <;> cases ch' <;> simp only [regWrite, reduceCtorEq, if_false, if_true] <;>
    first
    | exact field_setFieldTo_same _ _ _ (by decide)
    | (rw [field_setFieldTo_apart _ _ _ _ (by decide)])

/-- The complementary bits after ENABLE (R195, R197). -/
theorem ccne_enableEffect (ch ch' : Channel) (s : State) (f : BitField)
    (h : BitField.ccne ch' = some f) :
    (enableEffect ch s).field f = if ch' = ch then 0 else s.field f := by
  rw [enableEffect, field_respond, clearCcne]
  cases ch <;> cases ch' <;> cases h <;>
    simp only [BitField.ccne, regWrite, reduceCtorEq, if_false, if_true] <;>
    first
    | exact field_setFieldTo_same _ _ _ (by decide)
    | (rw [field_setFieldTo_apart _ _ _ _ (by decide), field_setFieldTo_apart _ _ _ _ (by decide)])
    | (rw [field_setFieldTo_apart _ _ _ _ (by decide)])

/-- The complementary bits after DISABLE (R198). -/
theorem ccne_disableEffect (ch ch' : Channel) (s : State) (f : BitField)
    (h : BitField.ccne ch' = some f) : (disableEffect ch s).field f = s.field f := by
  rw [disableEffect, field_respond]
  cases ch <;> cases ch' <;> cases h <;> simp only [regWrite] <;>
    (rw [field_setFieldTo_apart _ _ _ _ (by decide)])

end Sys2Proof
end

