-- ==== Sys2Proof/Laws/PerInstr.lean ====
section
/-! SUPPORT. The family RowMatch: each command's word lies in the row of spec/opcode_table.json that has
the command's mnemonic (R107). -/

namespace Sys2Proof

/-- Some row of the table has the command's mnemonic and covers the command's word. -/
def Laws.RowMatch.Statement (i : Instr) : Prop :=
  ∃ r ∈ opcodeTable, r.mnemonic = i.mnemonic ∧ r.covers (encode i) = true

theorem Laws.RowMatch.resolve : Laws.RowMatch.Statement .resolve :=
  ⟨⟨"resolve", 0x10000000, 0xFFFFFFFF⟩, by simp [opcodeTable], rfl, by decide⟩

theorem Laws.RowMatch.init (mask : BitVec 4) : Laws.RowMatch.Statement (.init mask) :=
  ⟨⟨"init", 0x20000000, 0xFFFFFFF0⟩, by simp [opcodeTable], rfl, by revert mask; decide⟩

theorem Laws.RowMatch.enable (ch : Channel) : Laws.RowMatch.Statement (.enable ch) :=
  ⟨⟨"enable", 0x30000000, 0xF3FFFFFF⟩, by simp [opcodeTable], rfl, by cases ch <;> decide⟩

theorem Laws.RowMatch.disable (ch : Channel) : Laws.RowMatch.Statement (.disable ch) :=
  ⟨⟨"disable", 0x40000000, 0xF3FFFFFF⟩, by simp [opcodeTable], rfl, by cases ch <;> decide⟩

theorem Laws.RowMatch.getDuty (ch : Channel) : Laws.RowMatch.Statement (.getDuty ch) :=
  ⟨⟨"get_duty", 0x50000000, 0xF3FFFFFF⟩, by simp [opcodeTable], rfl, by cases ch <;> decide⟩

/-- The bits of the word that `set_duty`'s row fixes do not depend on the value. -/
theorem setDuty_fixed_bits (ch : Channel) (value : Half) :
    encode (.setDuty ch value) &&& 0xF3FF0000#32 = 0x60000000#32 := by
  have low : ∀ k < 16, (0xF3FF0000#32).getLsbD k = false := by decide
  have h : value.setWidth 32 &&& 0xF3FF0000#32 = 0#32 := by
    apply BitVec.eq_of_getLsbD_eq
    intro k _
    by_cases hk : k < 16
    · rw [BitVec.getLsbD_and, low k hk, Bool.and_false, BitVec.getLsbD_zero]
    · simp [BitVec.getLsbD_of_ge value k (by omega)]
  have h' : ((0x6 : BitVec 4).setWidth 32 <<< 28 ||| ch.field.setWidth 32 <<< 26) &&& 0xF3FF0000#32 =
      0x60000000#32 := by cases ch <;> decide
  have split (a b m : Word) : (a ||| b) &&& m = (a &&& m) ||| (b &&& m) := by
    apply BitVec.eq_of_getLsbD_eq
    intro k _
    simp [Bool.and_or_distrib_right]
  rw [encode, enc, split, h, h', BitVec.or_zero]

theorem Laws.RowMatch.setDuty (ch : Channel) (value : Half) :
    Laws.RowMatch.Statement (.setDuty ch value) :=
  ⟨⟨"set_duty", 0x60000000, 0xF3FF0000⟩, by simp [opcodeTable], rfl,
    by simp [OpcodeRow.covers, setDuty_fixed_bits]⟩

theorem Laws.RowMatch.getMaxDuty (ch : Channel) : Laws.RowMatch.Statement (.getMaxDuty ch) :=
  ⟨⟨"get_max_duty", 0x70000000, 0xF3FFFFFF⟩, by simp [opcodeTable], rfl, by cases ch <;> decide⟩

end Sys2Proof
end

