-- ==== Sys2Proof/Laws/Resolver.lean ====
section
/-! SUPPORT. What the resolver can answer. -/

namespace Sys2Proof.Machine

/-- With `q = ticks / 65536`: `ticks / (q + 1)` lies in 1..65535 (R135). -/
theorem ticks_div_bounds {ticks : Nat} (h₁ : 1 ≤ ticks) (h₂ : ticks < 2 ^ 32) :
    1 ≤ ticks / (ticks / 65536 + 1) ∧ ticks / (ticks / 65536 + 1) ≤ 65535 := by
  have hq : ticks / 65536 < 65536 := by omega
  refine ⟨?_, ?_⟩
  · exact Nat.div_pos (by omega) (by omega)
  · have : ticks / (ticks / 65536 + 1) < 65536 := by
      rw [Nat.div_lt_iff_lt_mul (by omega)]
      omega
    omega

/-- The answer on valid operands: the pair of R133 and R134, or CONFIG_IMPOSSIBLE when the
prescaler does not fit. -/
theorem resolveTicks_eq {ticks : Nat} (h : 1 ≤ ticks) :
    resolveTicks ticks =
      if ticks < 2 ^ 32 then
        .ok (BitVec.ofNat 16 (ticks / 65536)) (BitVec.ofNat 16 (ticks / (ticks / 65536 + 1) - 1))
      else .err .configImpossible := by
  unfold resolveTicks
  rw [show Config.pscSpan = 65536 from rfl]
  by_cases hb : ticks < 2 ^ 32
  · have hbounds := ticks_div_bounds h hb
    rw [if_neg (by omega), if_neg (by omega), if_neg (by omega), if_pos hb]
  · rw [if_pos (by omega), if_neg hb]

/-- Operands R131 lets through give at least one tick. -/
theorem one_le_ticks {c f : Nat} (h₁ : f ≠ 0) (h₂ : ¬ f > c) : 1 ≤ c / f :=
  Nat.div_pos (by omega) (by omega)

/-- Everything `resolve` can answer (R130 to R135). -/
theorem resolve_cases (c f : Nat) :
    ((f = 0 ∨ f > c) ∧ resolve c f = .err .configInvalid) ∨
    (0 < f ∧ f ≤ c ∧ 2 ^ 32 ≤ c / f ∧ resolve c f = .err .configImpossible) ∨
    (0 < f ∧ f ≤ c ∧ 1 ≤ c / f ∧ c / f < 2 ^ 32 ∧
      resolve c f = .ok (BitVec.ofNat 16 (c / f / 65536))
        (BitVec.ofNat 16 (c / f / (c / f / 65536 + 1) - 1))) := by
  by_cases h₁ : f = 0
  · simp [resolve, h₁]
  · by_cases h₂ : f > c
    · simp [resolve, h₁, h₂]
    · have ht := one_le_ticks h₁ h₂
      have he : resolve c f = resolveTicks (c / f) := by simp [resolve, h₁, h₂]
      by_cases hb : c / f < 2 ^ 32
      · exact .inr (.inr ⟨by omega, by omega, ht, hb, by rw [he, resolveTicks_eq ht, if_pos hb]⟩)
      · exact .inr (.inl ⟨by omega, by omega, by omega, by rw [he, resolveTicks_eq ht, if_neg hb]⟩)

end Sys2Proof.Machine
end

