-- ==== Sys2Proof/Laws/Runs.lean ====
section
/-! SUPPORT. The inductions over runs, once: what every step keeps, every run keeps. -/

namespace Sys2Proof

open Sys2Proof.Machine

/-- What every step keeps, a run keeps. -/
theorem run_keeps {P : State → Prop} (keeps : ∀ s t, P s → step s = .next t → P t)
    {s t : State} {rs : List Response} (h : Run s rs t) : P s → P t := by
  induction h with
  | nil => exact id
  | cons first _ ih => exact fun hp => ih (keeps _ _ hp first)

/-- What holds at power-on reset and is kept by every step holds in every reachable state. -/
theorem reachable_of_invariant {P : State → Prop} (start : ∀ moves, P (atReset moves))
    (keeps : ∀ s t, P s → step s = .next t → P t) {t : State} (h : Reachable t) : P t :=
  let ⟨moves, _, run⟩ := h
  run_keeps keeps run (start moves)

/-- What a step of a faulted block can do: a TICK, a port move, or the answer FAULTED (R264). -/
theorem step_of_faulted {s t : State} {e : ErrorCode} (h : s.life = .faulted e)
    (hs : step s = .next t) :
    t = tick (nextMove s).2 ∨ (∃ c f, t = drivePorts c f (nextMove s).2) ∨
    t = respond .faulted 0 (nextMove s).2 := by
  have hn : (nextMove s).2.life = .faulted e := by rw [nextMove_life, h]
  rcases step_cases s t hs with h1 | h1 | ⟨i, h1⟩ | h1
  · exact .inl h1
  · exact .inr (.inl h1)
  · rw [exec_of_faulted i hn] at h1
    exact .inr (.inr (Host.Outcome.next.inj h1).symm)
  · exact .inr (.inr (h1.trans (unlessFaulted_of_faulted hn)))

/-- With the counter stopped a TICK changes nothing (R230). -/
theorem tick_of_stopped {s : State} (h : s.field .cen = 0) : tick s = s := by rw [tick, if_pos h]

/-- A run of a faulted block keeps the fault and every field of a register (R264). -/
theorem run_of_faulted {s t : State} {rs : List Response} {e : ErrorCode} (h : s.life = .faulted e)
    (hr : Run s rs t) : t.life = .faulted e ∧ ∀ f, t.field f = s.field f := by
  refine run_keeps (P := fun u => u.life = .faulted e ∧ ∀ f, u.field f = s.field f) ?_ hr
    ⟨h, fun _ => rfl⟩
  rintro u v ⟨hl, hf⟩ huv
  rcases step_of_faulted hl huv with rfl | ⟨c, f, rfl⟩ | rfl <;>
    exact ⟨by simpa using hl, fun f => by simpa using hf f⟩

/-- A run of a faulted block whose counter is stopped keeps the count (R264). -/
theorem run_of_faulted_stopped {s t : State} {rs : List Response} {e : ErrorCode}
    (h : s.life = .faulted e) (hc : s.field .cen = 0) (hr : Run s rs t) :
    t.field .cen = 0 ∧ t.cnt = s.cnt ∧ t.pscnt = s.pscnt := by
  have hP := run_keeps
    (P := fun u => u.life = .faulted e ∧ u.field .cen = 0 ∧ u.cnt = s.cnt ∧ u.pscnt = s.pscnt)
    ?_ hr ⟨h, hc, rfl, rfl⟩
  · exact hP.2
  rintro u v ⟨hl, hf, h1, h2⟩ huv
  have n : (nextMove u).2.field .cen = 0 := by simpa using hf
  rcases step_of_faulted hl huv with rfl | ⟨c, f, rfl⟩ | rfl
  · rw [tick_of_stopped n]
    exact ⟨by simpa using hl, n, by rw [nextMove_frame]; exact h1, by rw [nextMove_frame]; exact h2⟩
  · exact ⟨by simpa using hl, by simpa using hf, by simp [nextMove_frame, h1], by simp [nextMove_frame, h2]⟩
  · exact ⟨by simpa using hl, by simpa using hf, by simp [nextMove_frame, h1], by simp [nextMove_frame, h2]⟩

end Sys2Proof
end

