-- ==== Sys2Proof/Tests/Slice0.lean ====
section
/-! SUPPORT. Tests. Expected values come from spec/95_test_vectors.md (V and P numbers) and from the
encodings of spec/30_encoding.md, or are computed by hand from the rule named. The last part shows,
for each statement with hypotheses, that something meets them. -/

namespace Sys2Proof.Tests

open Sys2Proof.Machine

/-! ## Helpers -/

/-- Power-on reset with the operands of P1 on the ports: 84 MHz, 1 kHz. -/
def powered : State := { State.reset with clkRate := 84000000, targetFreq := 1000 }

/-- V50's end state, written out from its table. -/
def running : State :=
  { powered with
    life := .running, chset := 0b1111, cr1 := 0x81, ccmr1 := 0x6868, ccmr2 := 0x6868
    bdtr := 0x8000, psc := 1, pscSh := 1, arr := 41999, arrSh := 41999
    response := some ⟨.ok, 0xF⟩ }

/-- V50's end state 83999 TICKs on: the last TICK of the period is next. -/
def lastTick : State := { running with cnt := 41999, pscnt := 1 }

/-- A running block whose mask leaves channel 4 unbound. No INIT of this block gives it (R7). -/
def partlyBound : State := { running with chset := 0b0111 }

/-- A faulted block (V52's end state). -/
def faulted : State :=
  { powered with life := .faulted .configInvalid, response := some ⟨.error .configInvalid, 0⟩ }

/-- The next state, where there is one. -/
def next? : Host.Outcome State Fault Refusal → Option State
  | .next s => some s
  | .fault _ => none
  | .refused _ => none

/-- The response after a step that presents a word. -/
def answer (w : Nat) (s : State) : Option Response :=
  (next? (step (s.withFetchWord 32 w))).bind State.response

/-! ## Decoding: words written out bit by bit (R101, R102) -/

theorem test_decode_resolve : decode 0b0001_00_0000000000_0000000000000000#32 = .command .resolve := by
  decide

theorem test_decode_init :
    decode 0b0010_00_0000000000_0000000000001111#32 = .command (.init 0b1111) := by decide

theorem test_decode_enable_ch3 :
    decode 0b0011_10_0000000000_0000000000000000#32 = .command (.enable .ch3) := by decide

theorem test_decode_disable_ch4 :
    decode 0b0100_11_0000000000_0000000000000000#32 = .command (.disable .ch4) := by decide

theorem test_decode_get_duty_ch2 :
    decode 0b0101_01_0000000000_0000000000000000#32 = .command (.getDuty .ch2) := by decide

theorem test_decode_set_duty_ch1 :
    decode 0b0110_00_0000000000_1010010000010000#32 = .command (.setDuty .ch1 42000) := by decide

theorem test_decode_get_max_duty_ch3 :
    decode 0b0111_10_0000000000_0000000000000000#32 = .command (.getMaxDuty .ch3) := by decide

theorem test_decode_reserved_opcodes :
    decode 0b0000_00_0000000000_0000000000000000#32 = .illegal .reservedOpcode ∧
    decode 0b1000_00_0000000000_0000000000000000#32 = .illegal .reservedOpcode := by decide

theorem test_decode_reserved_fields :
    decode 0b0001_01_0000000000_0000000000000000#32 = .illegal .channelNotZero ∧
    decode 0b0011_00_0000000001_0000000000000000#32 = .illegal .reservedBits ∧
    decode 0b0010_00_0000000000_0000000000010000#32 = .illegal .dataNotZero := by decide

/-- R113's examples. -/
theorem test_encode_examples :
    encode (.init 0b1111) = 0x2000000F ∧ encode (.enable .ch3) = 0x38000000 ∧
    encode (.setDuty .ch1 42000) = 0x6000A410 ∧ encode .resolve = 0x10000000 := by decide

theorem test_decodeTableWord_set_duty :
    decodeTableWord 32 0x6C00FFFF = some (.setDuty .ch4 65535) ∧
    decodeTableWord 32 0x6FFFFFFF = none := by decide

/-! ## Well-formed lines: an ill-formed one for each check (R115) -/

theorem test_wellFormed_refuses_mask : AsmLine.wellFormed (.init 16) = false := by decide

theorem test_wellFormed_refuses_channels :
    AsmLine.wellFormed (.enable 0) = false ∧ AsmLine.wellFormed (.disable 5) = false ∧
    AsmLine.wellFormed (.getDuty 0) = false ∧ AsmLine.wellFormed (.getMaxDuty 5) = false ∧
    AsmLine.wellFormed (.setDuty 5 0) = false := by decide

theorem test_wellFormed_refuses_value : AsmLine.wellFormed (.setDuty 1 65536) = false := by decide

theorem test_wellFormed_refuses_ports :
    AsmLine.wellFormed (.ports 4294967296 0) = false ∧
    AsmLine.wellFormed (.ports 0 4294967296) = false := by decide

theorem test_wellFormed_accepts_bounds :
    AsmLine.wellFormed (.init 15) = true ∧ AsmLine.wellFormed (.enable 1) = true ∧
    AsmLine.wellFormed (.setDuty 4 65535) = true ∧
    AsmLine.wellFormed (.ports 4294967295 0) = true := by decide

/-! ## The assembler's text (R115) -/

/-- `set_duty ch1, 42000 ; x` is the word 0x6000A410. -/
theorem test_assemble_set_duty :
    assemble [['s', 'e', 't', '_', 'd', 'u', 't', 'y', ' ', 'c', 'h', '1', ',', ' ',
      '4', '2', '0', '0', '0', ' ', ';', ' ', 'x']] = some [.command 0x6000A410] := by decide

/-- `.ports clk=10, freq=0x2`, then `init 0b1111`. -/
theorem test_assemble_ports_init :
    assemble [['.', 'p', 'o', 'r', 't', 's', ' ', 'c', 'l', 'k', '=', '1', '0', ',', ' ',
        'f', 'r', 'e', 'q', '=', '0', 'x', '2'],
      ['i', 'n', 'i', 't', ' ', '0', 'b', '1', '1', '1', '1']] =
      some [.ports 10 2, .command 0x2000000F] := by decide

/-- `enable ch5` is rejected. -/
theorem test_assemble_rejects_channel :
    assemble [['e', 'n', 'a', 'b', 'l', 'e', ' ', 'c', 'h', '5']] = none := by decide

/-! ## Resolver and RESOLVE -/

/-- V1, V8, V10, V15, V18. -/
theorem test_resolve_pairs :
    resolve 84000000 1000 = .ok 1 41999 ∧ resolve 65536 1 = .ok 1 32767 ∧
    resolve 131072 1 = .ok 2 43689 ∧ resolve 84000000 1 = .ok 1281 65521 ∧
    resolve 4294967295 1 = .ok 65535 65534 := by decide

/-- V3, V4, V6, V24, V25. -/
theorem test_resolve_errors :
    resolve 8000000 10000000 = .err .configInvalid ∧ resolve 84000000 0 = .err .configInvalid ∧
    resolve 0 1 = .err .configInvalid ∧ resolve 4294967296 1 = .err .configImpossible ∧
    resolve (2 ^ 40) (2 ^ 8) = .err .configImpossible := by decide

/-- V1: RESULT 0x0001A40F. -/
theorem test_resolve_answer : answer 0x10000000 powered = some ⟨.ok, 0x0001A40F⟩ := by decide

/-- V3 as a command: the error is no fault (R140). -/
theorem test_resolve_error_is_no_fault :
    next? (step ({ powered with clkRate := 8000000, targetFreq := 10000000 }.withFetchWord 32
      0x10000000)) =
    some { powered with
      clkRate := 8000000, targetFreq := 10000000
      response := some ⟨.error .configInvalid, 0⟩ } := by decide

/-! ## INIT -/

/-- V50. -/
theorem test_init : next? (step (powered.withFetchWord 32 0x2000000F)) = some running := by decide

/-- V54 and V55: the channel set is checked before the operands. -/
theorem test_init_unsupported_set :
    answer 0x20000007 powered = some ⟨.error .resourceConflict, 0⟩ ∧
    answer 0x20000007 { powered with targetFreq := 0 } = some ⟨.error .resourceConflict, 0⟩ := by
  decide

/-! ## Channel commands, from V50's end state -/

/-- V60. -/
theorem test_enable_ch1 :
    (next? (step (running.withFetchWord 32 0x30000000))).map State.ccer = some 0x0001 := by decide

/-- R195: the complementary bit is cleared, the polarity bits and channel 4's bits stay. -/
theorem test_enable_ch3_keeps_others :
    (next? (step ({ running with ccer := 0xFFFF }.withFetchWord 32 0x38000000))).map State.ccer =
      some 0xFBFF := by decide

/-- V62. -/
theorem test_disable_ch2 :
    (next? (step ({ running with ccer := 0x1111 }.withFetchWord 32 0x44000000))).map State.ccer =
      some 0x1101 := by decide

/-- V66: the value last written, with another in use. -/
theorem test_get_duty_ch1 :
    answer 0x50000000 { running with ccr := ⟨42000, 0, 0, 0⟩ } = some ⟨.ok, 0x0000A410⟩ := by decide

/-- V67: channel 1 does not alias channel 2. -/
theorem test_set_duty_ch1 :
    (next? (step (running.withFetchWord 32 0x6000A410))).map (fun s => (s.ccr, s.ccrSh)) =
      some (⟨42000, 0, 0, 0⟩, ⟨0, 0, 0, 0⟩) := by decide

/-- R45: without preload the shadow is written too. -/
theorem test_set_duty_without_preload :
    (next? (step ({ running with ccmr2 := 0x6060 }.withFetchWord 32 0x6C00FFFF))).map
      (fun s => (s.ccr, s.ccrSh)) = some (⟨0, 0, 0, 65535⟩, ⟨0, 0, 0, 65535⟩) := by decide

/-- V70. -/
theorem test_get_max_duty_ch3 : answer 0x78000000 running = some ⟨.ok, 0x0000A40F⟩ := by decide

/-! ## Errors -/

/-- V72, V73, V74. -/
theorem test_error_order :
    answer 0x30000000 powered = some ⟨.error .notInitialised, 0⟩ ∧
    answer 0x50000001 powered = some ⟨.error .illegalCommand, 0⟩ ∧
    answer 0x30000000 faulted = some ⟨.faulted, 0⟩ ∧
    answer 0x80000000 faulted = some ⟨.faulted, 0⟩ := by decide

/-- R260. -/
theorem test_status_codes :
    [Status.ok, .error .configInvalid, .error .configImpossible, .error .resourceConflict,
      .error .notInitialised, .error .illegalCommand, .faulted].map Status.code =
    [0, 1, 2, 3, 4, 5, 6] := by decide

/-! ## Counter and outputs -/

/-- V81, V82, V83. -/
theorem test_tick :
    tick { running with pscSh := 2, arrSh := 9, cnt := 5 } =
      { running with pscSh := 2, arrSh := 9, cnt := 5, pscnt := 1 } ∧
    tick { running with pscSh := 2, arrSh := 9, cnt := 5, pscnt := 2 } =
      { running with pscSh := 2, arrSh := 9, cnt := 6 } ∧
    tick { running with psc := 0, pscSh := 0, arr := 4, arrSh := 4, cnt := 4, ccr := ⟨0, 2, 0, 0⟩ } =
      { running with psc := 0, pscSh := 0, arr := 4, arrSh := 4, ccr := ⟨0, 2, 0, 0⟩
                     ccrSh := ⟨0, 2, 0, 0⟩ } := by decide

/-- V90, V91, V92, V93, V95, V96 on channel 2, whatever the draw. -/
theorem test_outputs :
    out .high .ch2 { running with ccrSh := ⟨0, 2, 0, 0⟩ } = .off ∧
    out .high .ch2 { running with ccer := 0x10, bdtr := 0, ccrSh := ⟨0, 2, 0, 0⟩ } = .off ∧
    out .low .ch2 { running with ccer := 0x10, ccrSh := ⟨0, 2, 0, 0⟩, cnt := 1 } = .high ∧
    out .high .ch2 { running with ccer := 0x10, ccrSh := ⟨0, 2, 0, 0⟩, cnt := 2 } = .low ∧
    out .high .ch2 { running with ccer := 0x10, ccrSh := ⟨0, 4, 0, 0⟩, cnt := 4 } = .low ∧
    out .low .ch2 { running with ccer := 0x10, ccrSh := ⟨0, 5, 0, 0⟩, cnt := 4 } = .high := by decide

/-- R237: a complementary output shows the inverse level. -/
theorem test_complementary_output :
    outn .low .ch1 { running with ccer := 0x4, ccrSh := ⟨2, 0, 0, 0⟩, cnt := 1 } = some .low ∧
    outn .low .ch4 running = none := by decide

/-- R173's register words and R86's offsets, on the bus view. -/
theorem test_register_words :
    regRead (.word .cr1) running = 0x81 ∧ regRead .arr running = 41999 ∧
    slotAt 0x44 = some (.held (.word .bdtr)) ∧ slotAt 0x12 = none := by decide

/-! ## Witnesses: the hypotheses of the statements can be met -/

/-- V50's end state is a good running state. -/
theorem running_good : RunningInvariant running := by
  refine ⟨by decide, by decide, ?_, by decide, by decide, by decide, by decide, by decide, by decide⟩
  intro ch _
  cases ch <;> decide

/-- V50 as a run of one step from power-on reset. -/
theorem running_run : Run { powered with schedule := [.command 0x2000000F#32] }
    [⟨.ok, 0xF⟩] running := by
  have h : step { powered with schedule := [.command 0x2000000F#32] } = .next running := by
    have := test_init
    revert this
    show next? (step { powered with schedule := [.command 0x2000000F#32] }) = some running → _
    cases step { powered with schedule := [.command 0x2000000F#32] } <;> simp [next?]
  exact Run.cons h (Run.nil running)

/-- EncodeOfDecodeIsTheWord, IllegalWordIsRefused, ChecksReportTheFirstFailure: a command's word, an
illegal one for each reason, and blocks that are not faulted. -/
theorem test_witness_words :
    decode 0x34000000#32 = .command (.enable .ch2) ∧
    decode 0x10000001#32 = .illegal .dataNotZero ∧ decode 0x24000000#32 = .illegal .channelNotZero ∧
    decode 0x33FF0000#32 = .illegal .reservedBits ∧ decode 0xF0000000#32 = .illegal .reservedOpcode ∧
    powered.life.isFaulted = false ∧ running.life.isFaulted = false := by decide

/-- StepRunsTheDecodedCommand, StepMakesPortMovesAndTicks, IllegalWordIsRefused: schedules. -/
theorem test_witness_schedules :
    ({ running with schedule := [.command 0x34000000#32, .tick] } : State).schedule =
      .command 0x34000000#32 :: [.tick] ∧
    ({ running with schedule := [.ports 5 1] } : State).schedule = .ports 5 1 :: [] ∧
    ({ running with schedule := [.tick] } : State).schedule = .tick :: [] ∧
    running.schedule = [] := by decide

/-- FaultedBlockAnswersFaulted, FailedResolveLeavesTheTimerStopped: a faulted state, one whose
counter counts, and a step from a good state to a faulted one. -/
theorem test_witness_faulted :
    faulted.life = .faulted .configInvalid ∧
    ({ running with life := .faulted .resourceConflict } : State).field .cen = 1 ∧
    (next? (step (running.withFetchWord 32 0x2000000F))).map State.life =
      some (.faulted .resourceConflict) := by decide

/-- FaultedBlockAnswersFaulted, FailedResolveLeavesTheTimerStopped: a run from a faulted state. -/
theorem test_witness_faulted_run : Run faulted [] faulted := Run.nil faulted

/-- FaultedBlockAnswersFaulted: a running block with the invariant whose second INIT faults it, and a
run from the fault. -/
theorem test_witness_fault_while_running :
    GoodWhileRunning (running.withFetchWord 32 0x2000000F) ∧
    (running.withFetchWord 32 0x2000000F).life = .running ∧
    ∃ t, step (running.withFetchWord 32 0x2000000F) = .next t ∧ t.life.isFaulted = true ∧
      Run t [] t := by
  refine ⟨fun _ => ?_, rfl, _, rfl, by decide, Run.nil _⟩
  refine ⟨by decide, by decide, ?_, by decide, by decide, by decide, by decide, by decide, by decide⟩
  intro ch _
  cases ch <;> decide

/-- FaultedBlockAnswersFaulted, UnconfiguredStatesStayStopped: an unconfigured block with the
invariant that a channel command faults, and a run from the fault. -/
theorem test_witness_fault_before_init :
    StoppedWhenUnconfigured (powered.withFetchWord 32 0x30000000) ∧
    (powered.withFetchWord 32 0x30000000).life = .unconfigured ∧
    ∃ t, step (powered.withFetchWord 32 0x30000000) = .next t ∧ t.life.isFaulted = true ∧
      Run t [] t :=
  ⟨fun _ => by decide, rfl, _, rfl, by decide, Run.nil _⟩

/-- FailedResolveLeavesTheTimerStopped: an INIT of an unconfigured block whose resolve fails. -/
theorem test_witness_failed_init :
    StoppedWhenUnconfigured State.reset ∧ State.reset.life = .unconfigured ∧
    resolve State.reset.clkRate.toNat State.reset.targetFreq.toNat = .err .configInvalid ∧
    ∃ t, exec (.init 0b1111) State.reset = .next t ∧ Run t [] t :=
  ⟨fun _ => by decide, rfl, by decide, _, rfl, Run.nil _⟩

/-- LifecycleChangesOnlyAsListed: each cause of a fault but CONFIG_IMPOSSIBLE, which ports of 32 bits
cannot give (R136). -/
theorem test_witness_fault_causes :
    FaultCause 0x2000000F#32 State.reset .configInvalid ∧
    FaultCause 0x2000000F#32 running .resourceConflict ∧
    FaultCause 0x2000000E#32 powered .resourceConflict ∧
    FaultCause 0x3C000000#32 partlyBound .resourceConflict ∧
    FaultCause 0x3C000000#32 powered .notInitialised ∧
    FaultCause 0x00000000#32 powered .illegalCommand :=
  ⟨⟨rfl, 0b1111, by decide, by decide, by decide⟩,
    .inl ⟨0b1111, by decide, .inl rfl⟩,
    .inl ⟨0b1110, by decide, .inr ⟨rfl, by decide⟩⟩,
    .inr ⟨.enable .ch4, .ch4, by decide, rfl, rfl, by decide⟩,
    ⟨rfl, .enable .ch4, .ch4, by decide, rfl⟩,
    ⟨.reservedOpcode, by decide⟩⟩

/-- R140: no RESOLVE is a cause for which the codes of a failed resolve fault the block. -/
theorem test_resolve_is_no_fault_cause :
    ¬ FaultCause 0x10000000#32 State.reset .configInvalid := by
  rintro ⟨_, mask, _, h, _⟩
  rw [show decode 0x10000000#32 = .command .resolve by decide] at h
  cases h

/-- ChecksReportTheFirstFailure, InitResourceConflict, ChannelCheckRefuses: both ends of the
conditions. -/
theorem test_witness_checks :
    running.life = .running ∧ powered.life = .unconfigured ∧
    (0b1110#4) ∉ Config.supportedSets ∧ (0b1111#4) ∈ Config.supportedSets ∧ (0b1110#4) ≠ 0b1111#4 ∧
    partlyBound.life = .running ∧ partlyBound.bound .ch4 = false ∧
    partlyBound.chset.getLsbD (Channel.number .ch4 - 1) = false ∧
    decode 0x2000000E#32 = .command (.init 0b1110) ∧ decode 0x3C000000#32 = .command (.enable .ch4) ∧
    Instr.channel? (.enable .ch4) = some .ch4 ∧ running.chset ∈ Config.supportedSets := by decide

/-- ErrorsChangeOnlyTheLifecycle: a command that reports an error. -/
theorem test_witness_error_response :
    (next? (presentWord 0x30000000#32 powered)).bind State.response =
      some ⟨.error .notInitialised, 0⟩ ∧ (Status.error .notInitialised) ≠ .ok := by decide

/-- LifecycleChangesOnlyAsListed: a step that changes the lifecycle. -/
theorem test_witness_step_changes_life :
    ∃ t, step (powered.withFetchWord 32 0x2000000F) = .next t ∧ t.life ≠ powered.life :=
  ⟨running, by
    have := test_init
    revert this
    cases step (powered.withFetchWord 32 0x2000000F) <;> simp [next?], by decide⟩

/-- PortsOnlyMatterToResolveAndInit: the word of a command that is neither, with its next state, an
illegal word, and an INIT of a running block. -/
theorem test_witness_ports :
    decode 0x30000000#32 ≠ .command .resolve ∧
    (∀ mask, decode 0x30000000#32 ≠ .command (.init mask)) ∧
    (∃ t, presentWord 0x30000000#32 running = .next t) ∧
    decode 0x00000000#32 ≠ .command .resolve ∧ running.life.isFaulted = false ∧
    ∃ t, exec (.init 0b1111) running = .next t := by
  have h : decode 0x30000000#32 = .command (.enable .ch1) := by decide
  exact ⟨by decide, by intro mask; rw [h]; simp, ⟨_, by rw [presentWord, h]; rfl⟩, by decide, by decide, ⟨_, rfl⟩⟩

/-- ResolveRejectsInvalidOperands, PrescalerIsTheQuotientOrImpossible, ReloadIsExactAndNeverFull,
ResolveLosesAtMostThePrescaler, ResolveEdgeCases: operands at the ends of the resolver's cases. -/
theorem test_witness_resolve :
    (0 = 0 ∨ 0 > 5) ∧ ((6 : Nat) = 0 ∨ 6 > 5) ∧ (0 < 1 ∧ 1 ≤ 4294967296 ∧ 2 ^ 32 ≤ 4294967296 / 1) ∧
    (0 < 1 ∧ 1 ≤ 4294967295 ∧ 4294967295 / 1 < 2 ^ 32) ∧ resolve 1 1 = .ok 0 0 ∧
    resolve 4294967295 1 = .ok 65535 65534 := by decide

/-- ResolveCommandOnlyAnswers, InitConfiguresAndStarts, FailedResolveLeavesTheTimerStopped: ports
with a pair and ports with an error. -/
theorem test_witness_ports_resolve :
    resolve powered.clkRate.toNat powered.targetFreq.toNat = .ok 1 41999 ∧
    resolve State.reset.clkRate.toNat State.reset.targetFreq.toNat = .err .configInvalid ∧
    State.reset.life = .unconfigured ∧ resolve 4294967296 1 = .err .configImpossible := by decide

/-- ChannelModesFollowTheMask: a mask with a channel in it and one not. -/
theorem test_witness_mask :
    (0b0100#4).getLsbD (Channel.maskBit .ch3) = true ∧
    (0b0100#4).getLsbD (Channel.maskBit .ch4) = false := by decide

/-- UpdateGenerationForcesAnUpdate, WritesReachTheShadowWithoutPreload,
FieldWriteKeepsTheOtherBits: both values of each bit, a field at the top of a word. -/
theorem test_witness_writes :
    (1#32).getLsbD 0 = true ∧ (2#32).getLsbD 0 = false ∧ running.field .arpe = 1 ∧
    powered.field .arpe = 0 ∧ running.field (.ocpe .ch4) = 1 ∧ powered.field (.ocpe .ch4) = 0 ∧
    (⟨.bdtr, 31, 1⟩ : BitField).lo + (⟨.bdtr, 31, 1⟩ : BitField).len ≤ 32 := by decide

/-- EnableSetsItsOwnBit, DisableClearsItsOwnBit, GetDutyAnswersTheRegister,
SetDutyWritesItsOwnRegister, SetDutyOfChannelOneWritesCcr1, GetMaxDutyAnswersTheReload,
EnableIsIdempotent: the channel commands' conditions, for the first and the last channel. -/
theorem test_witness_channel_commands :
    running.life = .running ∧ running.bound .ch1 = true ∧ running.bound .ch4 = true ∧
    running.chset = 0b1111#4 ∧ ∃ t, exec (.enable .ch4) running = .next t :=
  ⟨rfl, by decide, by decide, rfl, ⟨_, rfl⟩⟩

/-- ChannelCommandsOwnTheirFields: two states that differ, as its second part asks. -/
theorem test_witness_own_fields :
    running.life = ({ running with cnt := 7 } : State).life ∧
    running.chset = ({ running with cnt := 7 } : State).chset ∧
    running.ccr.get .ch1 = ({ running with cnt := 7 } : State).ccr.get .ch1 ∧
    running.arr = ({ running with cnt := 7 } : State).arr ∧ running ≠ { running with cnt := 7 } := by
  decide

/-- LastToggleWins: a running state with a schedule of toggles. -/
theorem test_witness_toggles :
    ({ running with schedule := [.command 0x30000000#32, .command 0x40000000#32,
        .command 0x30000000#32] } : State).schedule =
      [Instr.enable .ch1, .disable .ch1, .enable .ch1].map (fun i => .command (encode i)) ∧
    running.life = .running ∧ running.chset = 0b1111#4 ∧
    (∀ i ∈ [Instr.enable .ch1, .disable .ch1, .enable .ch1],
      ∃ ch, i = .enable ch ∨ i = .disable ch) ∧
    lastToggle .ch1 [.enable .ch1, .disable .ch1, .enable .ch1] = some true ∧
    lastToggle .ch2 [.enable .ch1, .disable .ch1, .enable .ch1] = none := by
  refine ⟨by decide, rfl, rfl, ?_, by decide, by decide⟩
  intro i hi
  refine ⟨.ch1, ?_⟩
  rcases List.mem_cons.1 hi with h | hi
  · exact .inl h
  · rcases List.mem_cons.1 hi with h | hi
    · exact .inr h
    · exact .inl (List.mem_singleton.1 hi)

/-- SetThenGetDutyRoundTrip, PeriodIsFixedAfterInit: a good run of one TICK after a `set_duty`, with
another channel's `set_duty` still ahead. -/
theorem test_witness_round_trip :
    ∃ t, exec (.setDuty .ch1 42000) { running with schedule := [.tick, .command 0x64000005#32] } =
        .next t ∧ t.life = .running ∧
      (∀ w, Move.command w ∈ t.schedule → ∀ v', decode w ≠ .command (.setDuty .ch1 v')) ∧
      ∃ u, GoodRun t [] u ∧ u.pscnt = 1 := by
  refine ⟨_, rfl, by decide, ?_, _, ⟨Run.cons rfl (Run.nil _), by decide⟩, by decide⟩
  have hs : (channelCommand .ch1 (setDutyEffect .ch1 42000)
      { running with schedule := [.tick, .command 0x64000005#32] }).schedule =
      [.tick, .command 0x64000005#32] := by decide
  intro w hw v'
  rw [hs] at hw
  rcases List.mem_cons.1 hw with h | h
  · cases h
  · obtain rfl : w = 0x64000005#32 := Move.command.inj (List.mem_singleton.1 h)
    rw [show decode 0x64000005#32 = .command (.setDuty .ch2 5) by decide]
    intro hc
    cases hc

/-- CounterIsPeriodic, HighTicksPerPeriod: the start of a period. -/
theorem test_witness_period_start :
    running.field .cen = 1 ∧ running.cnt = 0 ∧ running.pscnt = 0 ∧ running.pscSh = running.psc ∧
    running.arrSh = running.arr ∧ running.field (.ocm .ch4) = 0b110#32 := by decide

/-- TickDividesCountsAndWraps: the ends of its cases. -/
theorem test_witness_tick :
    powered.cr1.getLsbD 0 = false ∧ running.cr1.getLsbD 0 = true ∧
    running.pscnt.toNat < running.pscSh.toNat ∧
    ({ running with pscnt := 1 } : State).pscSh.toNat ≤ ({ running with pscnt := 1 } : State).pscnt.toNat ∧
    ({ running with pscnt := 1, cnt := 41999 } : State).cnt = running.arrSh ∧
    running.cnt ≠ running.arrSh := by decide

/-- ReferenceLevelRule, OutputDriveRule: a reachable state in PWM mode 1, and power-on reset, whose
channels are not. -/
theorem test_witness_reachable :
    Reachable (atReset []) ∧ (atReset []).field (.ocm .ch1) ≠ 0b110#32 ∧
    running.field (.ocm .ch1) = 0b110#32 ∧ BitField.ccne .ch3 = some ⟨.ccer, 10, 1⟩ :=
  ⟨⟨[], [], Run.nil _⟩, by decide, by decide, by decide⟩

/-- Power-on reset reaches V50's end state. -/
theorem test_witness_reachable_running : Reachable running := by
  refine ⟨[.ports 84000000 1000, .command 0x2000000F#32], [⟨.ok, 0xF⟩], ?_⟩
  exact Run.cons (t := { powered with schedule := [.command 0x2000000F#32] }) rfl running_run

/-- OutputsChangeOnlyAsListed, NewDutyIsInUseWithinOnePeriod: a good running state with a bound
channel. -/
theorem test_witness_running_good :
    GoodWhileRunning running ∧ RunningInvariant running ∧ running.life = .running ∧
    running.bound .ch2 = true ∧ ∃ t, exec (.setDuty .ch2 7) running = .next t :=
  ⟨fun _ => running_good, running_good, rfl, by decide, ⟨_, rfl⟩⟩

/-- NewDutyIsInUseWithinOnePeriod: at the last TICK of a period the value written is in use after
one TICK, the least latency R301 gives. -/
theorem test_witness_last_tick :
    RunningInvariant lastTick ∧ lastTick.life = .running ∧ lastTick.bound .ch2 = true ∧
    ∃ t, exec (.setDuty .ch2 7) lastTick = .next t ∧ t.ccrSh = lastTick.ccrSh ∧
      (ticks 1 t).ccrSh.get .ch2 = 7 := by
  refine ⟨?_, by decide, by decide, _, rfl, by decide, by decide⟩
  refine ⟨by decide, by decide, ?_, by decide, by decide, by decide, by decide, by decide, by decide⟩
  intro ch _
  cases ch <;> decide

/-- OutputsChangeOnlyAsListed: a step that changes an output, an `enable` at the head of the schedule
(R195, R237: OFF becomes LOW, as the count 0 is not below the compare value 0). -/
theorem test_witness_output_changes :
    (∃ t, step (running.withFetchWord 32 0x30000000) = .next t ∧
      ¬ SameOutputs (running.withFetchWord 32 0x30000000) t) ∧
    GoodWhileRunning (running.withFetchWord 32 0x30000000) := by
  refine ⟨⟨_, rfl, fun same => ?_⟩, fun _ => ?_⟩
  · exact absurd (same .low .ch1).1 (by decide)
  · refine ⟨by decide, by decide, ?_, by decide, by decide, by decide, by decide, by decide, by decide⟩
    intro ch _
    cases ch <;> decide

/-- OutputsChangeOnlyAsListed: a command answered with another status than OK. -/
theorem test_witness_output_error :
    ∃ t, presentWord 0x2000000F#32 running = .next t ∧
      t.response = some ⟨.error .resourceConflict, 0⟩ ∧ Status.error .resourceConflict ≠ .ok := by
  have h : decode 0x2000000F#32 = .command (.init 0b1111) := by decide
  rw [presentWord, h]
  exact ⟨_, rfl, by decide, by decide⟩

/-- FirstPeriodIsLow: INIT and a `set_duty` one after the other. -/
theorem test_witness_first_period :
    ∃ t u, exec (.init 0b1111) powered = .next t ∧ exec (.setDuty .ch1 1) t = .next u ∧
      powered.life = .unconfigured := ⟨_, _, rfl, rfl, rfl⟩

/-- RunningStatesStayGood, UnnamedBitsKeepTheirResetValues, ComplementaryBitsStayClear,
EnabledChannelsStayInPwmMode, RunningSetStaysSupported: V50's end state meets their hypotheses. -/
theorem test_witness_invariants :
    GoodWhileRunning running ∧ UnnamedBitsAtReset running ∧ ComplementaryOff running ∧
    EnabledOnlyInPwmMode running ∧ RunningSetSupported running := by
  refine ⟨fun _ => running_good, ?_, ?_, ⟨?_, ?_⟩, ?_⟩
  · intro r; cases r <;> decide
  · intro ch f hf; cases ch <;> cases hf <;> decide
  · intro ch _; cases ch <;> decide
  · intro _ ch _; cases ch <;> decide
  · intro _; decide

/-- PowerOnStateAndItsObservers: two states that differ in a timer register alone. -/
theorem test_witness_before_init :
    sameBeforeInit powered { powered with arr := 0xFFFF } ∧ powered.field .cen = 0 ∧
    ({ powered with arr := 0xFFFF } : State).field .cen = 0 ∧
    powered ≠ { powered with arr := 0xFFFF } :=
  ⟨⟨rfl, rfl, rfl, rfl, rfl, rfl⟩, by decide, by decide, by decide⟩

/-- RegisterBlockMap: an offset past the map, an odd one, a sub-word access. -/
theorem test_witness_offsets :
    0x50 ≤ 0x50 ∧ 0x50 % 4 = 0 ∧ (0x46 % 4 ≠ 0) ∧ ((2 : Nat) ≠ 4 ∨ 0x44 % 4 ≠ 0) ∧
    0x04 ∈ [0x04, 0x08, 0x0C, 0x10, 0x30, 0x48, 0x4C] := by decide

end Sys2Proof.Tests
end

section
/-! What one command word does to the lifecycle, and for which cause (R31, R262 to R265). -/

namespace Sys2Proof

open Sys2Proof.Machine

/-- How the lifecycle of `t`, the state after the word `w`, comes from that of `s`, the state before:
it is the same, an INIT that answered OK started the block, or the word faulted a block that was not
faulted, with the code answered and for that code's cause (R31). -/
inductive LifeOutcome (w : Word) (s t : State) : Prop where
  | kept (after : t.life = s.life)
  | started (mask : BitVec 4) (before : s.life = .unconfigured) (after : t.life = .running)
      (word : decode w = .command (.init mask)) (answer : t.response = some ⟨.ok, mask.setWidth 32⟩)
  | faulted (e : ErrorCode) (before : s.life.isFaulted = false) (after : t.life = .faulted e)
      (answer : t.response = some ⟨.error e, 0#32⟩) (cause : FaultCause w s e)

theorem isFaulted_eq_false_iff {l : Life} :
    l.isFaulted = false ↔ l = .unconfigured ∨ l = .running := by
  cases l <;> simp [Life.isFaulted]

theorem lifeOutcome_raiseFault {w : Word} {s : State} {e : ErrorCode}
    (before : s.life.isFaulted = false) (cause : FaultCause w s e) :
    LifeOutcome w s (raiseFault e s) :=
  .faulted e before (raiseFault_life e s) (raiseFault_response e s) cause

/-- Behind the FAULTED check only the body of a block that is not faulted matters (R264). -/
theorem lifeOutcome_unlessFaulted {w : Word} {s : State} {body : State → State}
    (h : s.life.isFaulted = false → LifeOutcome w s (body s)) :
    LifeOutcome w s (unlessFaulted body s) := by
  cases hf : s.life.isFaulted with
  | true =>
    obtain ⟨e, hl⟩ := isFaulted_iff.1 hf
    rw [unlessFaulted_of_faulted hl]
    exact .kept (respond_life _ _ _)
  | false =>
    rw [unlessFaulted_of_not_faulted hf]
    exact h hf

/-- A RESOLVE answers and is no fault, whatever the resolver finds (R140). -/
theorem resolveResponse_life (c f : Nat) (s : State) : (resolveResponse c f s).life = s.life := by
  unfold resolveResponse
  split <;> exact respond_life _ _ _

/-- The resolver's two errors are the causes of their codes (R131, R133, R162). -/
theorem faultCause_of_initResolveFails {w : Word} {s : State} {e : ErrorCode}
    (h : InitResolveFails w s e) : FaultCause w s e := by
  have he : e = .configInvalid ∨ e = .configImpossible := by
    obtain ⟨_, _, _, _, hr⟩ := h
    rcases resolve_cases s.clkRate.toNat s.targetFreq.toNat with
      ⟨_, h'⟩ | ⟨_, _, _, h'⟩ | ⟨_, _, _, _, h'⟩ <;> rw [hr] at h'
    · exact .inl (Resolution.err.inj h')
    · exact .inr (Resolution.err.inj h')
    · cases h'
  rcases he with rfl | rfl <;> exact h

/-- INIT starts the block, or faults it for a cause of R161 or R162. -/
theorem lifeOutcome_initWith {w : Word} {mask : BitVec 4} {s : State}
    (hw : decode w = .command (.init mask)) (before : s.life.isFaulted = false) :
    LifeOutcome w s (initWith s.clkRate.toNat s.targetFreq.toNat mask s) := by
  have hl := isFaulted_eq_false_iff.1 before
  rcases initWith_cases s.clkRate.toNat s.targetFreq.toNat mask s with
    ⟨conflict, h⟩ | ⟨idle, hm, e, hr, h⟩ | ⟨idle, _, p, q, _, h⟩ <;> rw [h]
  · refine lifeOutcome_raiseFault before (.inl ⟨mask, hw, ?_⟩)
    rcases hl with hu | hrun
    · exact .inr ⟨hu, conflict.resolve_left (by simp [hu])⟩
    · exact .inl hrun
  · exact lifeOutcome_raiseFault before
      (faultCause_of_initResolveFails ⟨hl.resolve_right idle, mask, hm, hw, hr⟩)
  · exact .started mask (hl.resolve_right idle) rfl hw rfl

/-- The command that names a channel is a channel command whose effect keeps the lifecycle. -/
theorem exec_of_channel {i : Instr} {ch : Channel} (h : i.channel? = some ch) (s : State) :
    ∃ body : State → State, (body s).life = s.life ∧
      exec i s = .next (channelCommand ch body s) := by
  cases i with
  | resolve => cases h
  | init mask => cases h
  | enable ch' => cases h; exact ⟨_, enableEffect_life ch s, rfl⟩
  | disable ch' => cases h; exact ⟨_, disableEffect_life ch s, rfl⟩
  | getDuty ch' => cases h; exact ⟨getDutyEffect ch, respond_life _ _ s, rfl⟩
  | setDuty ch' v => cases h; exact ⟨_, setDutyEffect_life ch v s, rfl⟩
  | getMaxDuty ch' => cases h; exact ⟨getMaxDutyEffect, respond_life _ _ s, rfl⟩

/-- A channel command keeps the lifecycle, or faults the block for a cause of R190. -/
theorem lifeOutcome_channelCommand {w : Word} {i : Instr} {ch : Channel} {s : State}
    {body : State → State} (hw : decode w = .command i) (hc : i.channel? = some ch)
    (hb : (body s).life = s.life) : LifeOutcome w s (channelCommand ch body s) := by
  rcases channelCommand_cases ch body s with
    ⟨_, h⟩ | ⟨hu, h⟩ | ⟨hrun, unbound, h⟩ | ⟨_, _, h⟩ <;> rw [h]
  · exact .kept (respond_life _ _ _)
  · exact lifeOutcome_raiseFault (isFaulted_eq_false_iff.2 (.inl hu)) ⟨hu, i, ch, hw, hc⟩
  · exact lifeOutcome_raiseFault (isFaulted_eq_false_iff.2 (.inr hrun))
      (.inr ⟨i, ch, hw, hc, hrun, unbound⟩)
  · exact .kept hb

theorem lifeOutcome_exec {w : Word} {i : Instr} {s t : State} (hw : decode w = .command i)
    (h : exec i s = .next t) : LifeOutcome w s t := by
  cases hc : i.channel? with
  | some ch =>
    obtain ⟨body, hb, hx⟩ := exec_of_channel hc s
    obtain rfl := Host.Outcome.next.inj (hx.symm.trans h)
    exact lifeOutcome_channelCommand hw hc hb
  | none =>
    cases i with
    | resolve =>
      obtain rfl := Host.Outcome.next.inj h
      exact lifeOutcome_unlessFaulted fun _ => .kept (resolveResponse_life _ _ s)
    | init mask =>
      obtain rfl := Host.Outcome.next.inj h
      exact lifeOutcome_unlessFaulted (lifeOutcome_initWith hw)
    | enable ch => cases hc
    | disable ch => cases hc
    | getDuty ch => cases hc
    | setDuty ch v => cases hc
    | getMaxDuty ch => cases hc

theorem lifeOutcome_presentWord {w : Word} {s t : State} (h : presentWord w s = .next t) :
    LifeOutcome w s t := by
  cases hw : decode w with
  | command i => exact lifeOutcome_exec hw (by simpa only [presentWord, hw] using h)
  | illegal why =>
    obtain rfl : illegalCommand s = t := by simpa [presentWord, hw] using h
    exact lifeOutcome_unlessFaulted fun before => lifeOutcome_raiseFault before ⟨why, hw⟩

/-- The lifecycle of a step: a TICK and a port move keep it, a command word at the head of the
schedule treats it as `LifeOutcome` says. -/
theorem step_life {s t : State} (h : step s = .next t) :
    t.life = s.life ∨ ∃ w rest, s.schedule = .command w :: rest ∧ LifeOutcome w s t := by
  cases hs : s.schedule with
  | nil =>
    simp only [step, nextMove, hs, performMove] at h
    obtain rfl := Host.Outcome.next.inj h
    exact .inl (tick_life s)
  | cons m rest =>
    simp only [step, nextMove, hs] at h
    cases m with
    | tick =>
      obtain rfl := Host.Outcome.next.inj h
      exact .inl (tick_life _)
    | ports c f =>
      obtain rfl := Host.Outcome.next.inj h
      exact .inl (drivePorts_life c f _)
    | command w =>
      refine .inr ⟨w, rest, rfl, ?_⟩
      cases lifeOutcome_presentWord h with
      | kept after => exact .kept after
      | started mask before after word answer => exact .started mask before after word answer
      | faulted e before after answer cause =>
        exact .faulted e before after answer (by cases e <;> exact cause)

/-- The outcomes of a word are among the changes R31 lists. -/
theorem LifeOutcome.lifeChange {w : Word} {s t : State} (h : LifeOutcome w s t) :
    LifeChange s.life t.life := by
  cases h with
  | kept after => rw [after]; exact .same _
  | started mask before after => rw [before, after]; exact .start
  | faulted e before after =>
    rw [after]
    rcases isFaulted_eq_false_iff.1 before with hl | hl <;> rw [hl]
    · exact .fail e
    · exact .refuse e

/-- A word that led to RUNNING from another lifecycle is an INIT that answered OK (R171). -/
theorem LifeOutcome.init_of_running {w : Word} {s t : State} (h : LifeOutcome w s t)
    (changed : t.life ≠ s.life) (running : t.life = .running) :
    ∃ mask, decode w = .command (.init mask) ∧ t.response = some ⟨.ok, mask.setWidth 32⟩ := by
  cases h with
  | kept after => exact absurd after changed
  | started mask before after word answer => exact ⟨mask, word, answer⟩
  | faulted e before after => rw [after] at running; cases running

/-- A word that led to FAULTED from another lifecycle answered the code kept, for its cause. -/
theorem LifeOutcome.cause_of_faulted {w : Word} {s t : State} {e : ErrorCode}
    (h : LifeOutcome w s t) (changed : t.life ≠ s.life) (faulted : t.life = .faulted e) :
    t.response = some ⟨.error e, 0#32⟩ ∧ FaultCause w s e := by
  cases h with
  | kept after => exact absurd after changed
  | started mask before after => rw [after] at faulted; cases faulted
  | faulted e' before after answer cause =>
    obtain rfl := Life.faulted.inj (after.symm.trans faulted)
    exact ⟨answer, cause⟩

/-- Settles O14: every step keeps the lifecycle or has the `LifeOutcome` of the word it takes, whose
cases are the changes of R31 with their causes. -/
theorem lifecycleChangesOnlyAsListed : Obligations.LifecycleChangesOnlyAsListed := by
  refine ⟨fun s t h => ?_, fun s => rfl⟩
  rcases step_life h with same | ⟨w, rest, hs, outcome⟩
  · exact ⟨by rw [same]; exact .same _, fun changed => absurd same changed⟩
  · exact ⟨outcome.lifeChange, fun changed =>
      ⟨w, rest, hs, outcome.init_of_running changed, fun e => outcome.cause_of_faulted changed⟩⟩

end Sys2Proof
end

section
/-! Writes of the update-generation bit (R46, R234). -/

namespace Sys2Proof.Machine

theorem regWrite_ug_of_set {v : Word} (h : v.getLsbD 0 = true) (s : State) :
    regWrite .ug v s = forcedUpdate s := if_pos h

theorem regWrite_ug_of_clear {v : Word} (h : v.getLsbD 0 = false) (s : State) :
    regWrite .ug v s = s := if_neg (Bool.eq_false_iff.1 h)

/-- The forced update in full: the shadow copies loaded, `CNT` and `PSCNT` cleared (R234). -/
theorem forcedUpdate_eq (s : State) :
    forcedUpdate s = { s with
      pscSh := s.psc, arrSh := s.arr, ccrSh := s.ccr, cnt := 0#16, pscnt := 0#16 } := rfl

/-- Settles O28: bit 0 of the word written selects the forced update or nothing. -/
theorem updateGenerationForcesAnUpdate : Obligations.UpdateGenerationForcesAnUpdate :=
  ⟨fun s _ set => (regWrite_ug_of_set set s).trans (forcedUpdate_eq s),
    fun s _ clear => regWrite_ug_of_clear clear s, fun _ => rfl⟩

end Sys2Proof.Machine
end

section
/-! The words the decoder accepts and the words the opcode table covers: in both, the four fields are
those of a command (R101, R107, R112). -/

namespace Sys2Proof

/-- A command word has a command's opcode, `RSV` zero, and zero in the bits of `CH` and `DATA` that
the command has no operand in (R102, R107). -/
def LegalFields (w : Word) : Prop :=
  rsvField w = 0 ∧
  (((opField w).toNat = 1 ∧ chField w = 0 ∧ dataField w = 0) ∨
    ((opField w).toNat = 2 ∧ chField w = 0 ∧ (dataField w).extractLsb' 4 12 = 0) ∨
    (((opField w).toNat = 3 ∨ (opField w).toNat = 4 ∨ (opField w).toNat = 5 ∨
        (opField w).toNat = 7) ∧ dataField w = 0) ∨
    (opField w).toNat = 6)

/-! ## The decoder -/

@[simp] theorem withDataZero_legal_iff (w : Word) (i : Instr) :
    (∃ j, withDataZero w i = .command j) ↔ dataField w = 0 := by
  unfold withDataZero
  split <;> simp_all

theorem decode_legal_iff (w : Word) : (∃ i, decode w = .command i) ↔ LegalFields w := by
  unfold decode LegalFields
  split
  next reserved => simp_all
  next zero =>
    rw [and_iff_right (not_not.1 zero)]
    split
    case h_1 resolveOp => split <;> simp_all
    case h_2 initOp => split <;> [skip; split] <;> simp_all
    all_goals simp_all

theorem decode_illegal_iff (w : Word) : (∃ why, decode w = .illegal why) ↔ ¬ LegalFields w := by
  rw [← decode_legal_iff]
  cases decode w <;> simp

/-! ## The opcode table -/

/-- The four fields make up the word (R101). -/
theorem word_eq_iff_fields (a b : Word) :
    a = b ↔ opField a = opField b ∧ chField a = chField b ∧ rsvField a = rsvField b ∧
      dataField a = dataField b := by
  simp only [opField, chField, rsvField, dataField, BitVec.toNat_eq, BitVec.extractLsb'_toNat,
    Nat.shiftRight_eq_div_pow]
  omega

/-- A row covers a word when it does so in each field. -/
theorem covers_iff_fields (r : OpcodeRow) (w : Word) :
    r.covers w = true ↔
      opField w &&& opField r.mask = opField r.matchWord ∧
      chField w &&& chField r.mask = chField r.matchWord ∧
      rsvField w &&& rsvField r.mask = rsvField r.matchWord ∧
      dataField w &&& dataField r.mask = dataField r.matchWord := by
  rw [OpcodeRow.covers, beq_iff_eq, word_eq_iff_fields]
  simp only [opField, chField, rsvField, dataField, BitVec.extractLsb'_and]

/-- Under a mask of all ones every bit of a field counts. -/
theorem and_of_eq_allOnes {n : Nat} (x : BitVec n) {m : BitVec n} (h : m = BitVec.allOnes n) :
    x &&& m = x := by
  rw [h, BitVec.and_allOnes]

/-- The bits of `DATA` that the row of `init` fixes are those above the channel mask (R106). -/
theorem data_above_mask_eq_zero_iff (d : Half) :
    d &&& 0xFFF0#16 = 0#16 ↔ d.extractLsb' 4 12 = 0#12 := by
  have parts : d &&& 0xFFF0#16 = d.extractLsb' 4 12 ++ 0#4 := by
    have mask : ∀ k < 16, (0xFFF0#16).getLsbD k = decide (4 ≤ k) := by decide
    apply BitVec.eq_of_getLsbD_eq
    intro k hk
    rw [BitVec.getLsbD_and, mask k hk, BitVec.getLsbD_append]
    by_cases h : 4 ≤ k
    · simp [h, Nat.not_lt.2 h, Nat.add_sub_cancel' h, show k - 4 < 12 by omega]
    · simp [h, Nat.lt_of_not_le h]
  rw [parts, BitVec.toNat_eq, BitVec.toNat_eq, BitVec.toNat_append]
  simp

theorem covered_iff (w : Word) : (∃ r ∈ opcodeTable, r.covers w = true) ↔ LegalFields w := by
  simp only [opcodeTable, List.exists_mem_cons_iff, List.not_mem_nil, false_and, exists_false,
    or_false, covers_iff_fields, LegalFields]
  generalize opField w = op, chField w = ch, rsvField w = rsv, dataField w = data
  have number (n : BitVec 4) : op = n ↔ op.toNat = n.toNat := BitVec.toNat_eq
  simp only [opField, chField, rsvField, dataField, BitVec.ofNat_eq_ofNat, BitVec.reduceExtractLsb',
    BitVec.reduceAllOnes, and_of_eq_allOnes, BitVec.and_zero, data_above_mask_eq_zero_iff, number,
    BitVec.toNat_ofNat, Nat.reducePow, Nat.reduceMod, true_and, and_true]
  tauto

/-- Settles O4: decoder and table accept the words of `LegalFields`, whose complement is spelled out
opcode by opcode. -/
theorem illegalWordsAreTheReservedOnes : Obligations.IllegalWordsAreTheReservedOnes := by
  refine ⟨fun w => ?_, fun w => (decode_legal_iff w).trans (covered_iff w).symm⟩
  rw [decode_illegal_iff, LegalFields]
  grind

end Sys2Proof
end

section
/-! A command word at the head of the schedule, and the refusal of an illegal one (R100, R108). -/

namespace Sys2Proof.Machine

theorem step_of_command {s : State} {w : Word} {rest : List Move}
    (h : s.schedule = .command w :: rest) :
    step s = presentWord w { s with schedule := rest } := by
  simp only [step, nextMove, h, performMove]

theorem presentWord_of_illegal {w : Word} {why : IllegalReason} (h : decode w = .illegal why)
    (s : State) : presentWord w s = .next (illegalCommand s) := by
  simp only [presentWord, h]

theorem illegalCommand_of_not_faulted {s : State} (h : s.life.isFaulted = false) :
    illegalCommand s = raiseFault .illegalCommand s :=
  unlessFaulted_of_not_faulted h

/-- Settles O10: the word is taken, decoded as illegal, and raises the fault, whose writes are the
lifecycle and the response. -/
theorem illegalWordIsRefused : Obligations.IllegalWordIsRefused := by
  intro s w rest why hs hw before
  calc step s = .next (illegalCommand { s with schedule := rest }) := by
        rw [step_of_command hs, presentWord_of_illegal hw]
    _ = .next (raiseFault .illegalCommand { s with schedule := rest }) :=
        congrArg _ (illegalCommand_of_not_faulted before)

end Sys2Proof.Machine
end

section
/-! The answer of `resolve`, one equation per range of its operands (R131, R133, R134). -/

namespace Sys2Proof.Machine

theorem resolve_of_invalid {c f : Nat} (h : f = 0 ∨ f > c) : resolve c f = .err .configInvalid := by
  rcases resolve_cases c f with ⟨_, hr⟩ | ⟨pos, le, _⟩ | ⟨pos, le, _⟩
  · exact hr
  · omega
  · omega

/-- So many ticks need no check of the operands: operands R131 rejects have a quotient of 0. -/
theorem resolve_of_ticks_not_fit {c f : Nat} (h : 2 ^ 32 ≤ c / f) :
    resolve c f = .err .configImpossible := by
  rcases resolve_cases c f with ⟨invalid, _⟩ | ⟨_, _, _, hr⟩ | ⟨_, _, _, fit, _⟩
  · have zero : c / f = 0 := Nat.div_eq_zero_iff.2 invalid
    omega
  · exact hr
  · omega

theorem resolve_of_ticks_fit {c f : Nat} (pos : 0 < f) (le : f ≤ c) (h : c / f < 2 ^ 32) :
    resolve c f = .ok (BitVec.ofNat 16 (c / f / 65536))
      (BitVec.ofNat 16 (c / f / (c / f / 65536 + 1) - 1)) := by
  rcases resolve_cases c f with ⟨invalid, _⟩ | ⟨_, _, not_fit, _⟩ | ⟨_, _, _, _, hr⟩
  · omega
  · omega
  · exact hr

/-- Below `2^32` ticks the prescaler keeps its value in 16 bits (R133). -/
theorem toNat_prescaler {ticks : Nat} (h : ticks < 2 ^ 32) :
    (BitVec.ofNat 16 (ticks / 65536)).toNat = ticks / 65536 :=
  (BitVec.toNat_ofNat _ _).trans (Nat.mod_eq_of_lt (by omega))

/-- Settles O17: on each side of `2^32` ticks the answer is known, and on the lower side the
quotient fits in 16 bits. -/
theorem prescalerIsTheQuotientOrImpossible : Obligations.PrescalerIsTheQuotientOrImpossible :=
  fun _ _ pos le => ⟨resolve_of_ticks_not_fit,
    fun fit => ⟨_, _, resolve_of_ticks_fit pos le fit, toNat_prescaler fit⟩⟩

/-- Settles O16: at a zero clock rate every target frequency is 0 or above it. -/
theorem resolveRejectsInvalidOperands : Obligations.ResolveRejectsInvalidOperands :=
  ⟨fun _ _ => resolve_of_invalid, fun f => resolve_of_invalid (Nat.eq_zero_or_pos f)⟩

/-- Equal operands give one tick, so neither division leaves anything (R138). -/
theorem resolve_self {c : Nat} (h : 1 ≤ c) : resolve c c = .ok 0#16 0#16 := by
  have one : c / c = 1 := Nat.div_self h
  rw [resolve_of_ticks_fit h le_rfl (by omega), one]

/-- Settles O21: one tick, none, and too many. -/
theorem resolveEdgeCases : Obligations.ResolveEdgeCases :=
  ⟨fun _ => resolve_self, fun _ _ above => resolve_of_invalid (.inr above),
    fun _ _ => resolve_of_ticks_not_fit⟩

end Sys2Proof.Machine
end

section
/-! How INIT of a block that is not faulted fails: the conflicts of R161, and an error of `resolve`,
which comes before the nine steps and so leaves the timer as it was (R162). -/

namespace Sys2Proof

open Sys2Proof.Machine

/-- What a fault writes, in full (R262). -/
theorem raiseFault_eq (e : ErrorCode) (s : State) :
    raiseFault e s = { s with life := .faulted e, response := some ⟨.error e, 0#32⟩ } := rfl

theorem mem_supportedSets_iff {mask : BitVec 4} : mask ∈ Config.supportedSets ↔ mask = 0b1111#4 :=
  List.mem_singleton

/-- Past the FAULTED check INIT samples the operand ports (R160, R265). -/
theorem exec_init_of_not_faulted {s : State} (before : s.life.isFaulted = false)
    (mask : BitVec 4) :
    exec (.init mask) s = .next (initWith s.clkRate.toNat s.targetFreq.toNat mask s) :=
  congrArg Host.Outcome.next (unlessFaulted_of_not_faulted before)

theorem initWith_of_conflict {mask : BitVec 4} {s : State}
    (conflict : s.life = .running ∨ mask ∉ Config.supportedSets) (c f : Nat) :
    initWith c f mask s = raiseFault .resourceConflict s := by
  rcases initWith_cases c f mask s with ⟨_, h⟩ | ⟨idle, supported, _⟩ | ⟨idle, supported, _⟩
  · exact h
  · exact absurd supported (conflict.resolve_left idle)
  · exact absurd supported (conflict.resolve_left idle)

theorem initWith_of_resolve_err {c f : Nat} {e : ErrorCode} {mask : BitVec 4} {s : State}
    (idle : s.life ≠ .running) (supported : mask ∈ Config.supportedSets)
    (failed : resolve c f = .err e) : initWith c f mask s = raiseFault e s := by
  rcases initWith_cases c f mask s with ⟨conflict, _⟩ | ⟨_, _, e', hr, h⟩ | ⟨_, _, p, r, hr, _⟩
  · exact absurd supported (conflict.resolve_left idle)
  · obtain rfl := Resolution.err.inj (failed.symm.trans hr)
    exact h
  · cases failed.symm.trans hr

theorem initWith_of_unconfigured_of_resolve_err {c f : Nat} {e : ErrorCode} {s : State}
    (hl : s.life = .unconfigured) (failed : resolve c f = .err e) :
    initWith c f 0b1111#4 s = raiseFault e s :=
  initWith_of_resolve_err (by simp [hl]) (mem_supportedSets_iff.2 rfl) failed

theorem exec_init_of_unconfigured_of_resolve_err {e : ErrorCode} {s : State}
    (hl : s.life = .unconfigured)
    (failed : resolve s.clkRate.toNat s.targetFreq.toNat = .err e) :
    exec (.init 0b1111#4) s = .next (raiseFault e s) := by
  rw [exec_init_of_not_faulted (isFaulted_eq_false_iff.2 (.inl hl)),
    initWith_of_unconfigured_of_resolve_err hl failed]

/-- Settles O24: a second INIT and an unsupported mask are the two conflicts, and neither block is
faulted. -/
theorem initResourceConflict : Obligations.InitResourceConflict := by
  intro s mask h
  have before : s.life.isFaulted = false :=
    isFaulted_eq_false_iff.2 (h.symm.imp_left And.left)
  have conflict : s.life = .running ∨ mask ∉ Config.supportedSets :=
    h.imp_right fun ⟨_, other⟩ => mt mem_supportedSets_iff.1 other
  rw [exec_init_of_not_faulted before, initWith_of_conflict conflict, raiseFault_eq]

/-- Settles O25: the failed INIT is a fault and nothing more, so CEN is still the 0 of an unconfigured
block, and no run of a faulted block writes it or counts without it. -/
theorem failedResolveLeavesTheTimerStopped : Obligations.FailedResolveLeavesTheTimerStopped := by
  refine ⟨fun s c f e => initWith_of_unconfigured_of_resolve_err,
    fun s e => exec_init_of_unconfigured_of_resolve_err,
    fun s t e rs faulted run => (run_of_faulted faulted run).2 .cen, ?_⟩
  intro s t u e rs stopped hl failed init run
  obtain rfl : raiseFault e s = t :=
    Host.Outcome.next.inj ((exec_init_of_unconfigured_of_resolve_err hl failed).symm.trans init)
  have cen : (raiseFault e s).field .cen = 0 := (field_raiseFault e s .cen).trans (stopped hl)
  simpa only [raiseFault_cnt, raiseFault_pscnt] using
    run_of_faulted_stopped (raiseFault_life e s) cen run

end Sys2Proof
end

section
/-! Step 3 of INIT over a list of channels: what one `initChannel` does, folded (R165). -/

namespace Sys2Proof.Machine

/-- Step 3 writes CCMR1 and CCMR2 only. -/
theorem foldl_initChannel_frame (mask : BitVec 4) (chs : List Channel) (s : State) :
    chs.foldl (initChannel mask) s = { s with
      ccmr1 := (chs.foldl (initChannel mask) s).ccmr1
      ccmr2 := (chs.foldl (initChannel mask) s).ccmr2 } := by
  induction chs generalizing s with
  | nil => rfl
  | cons ch chs ih =>
    rw [List.foldl_cons, ih, initChannel_frame]

/-- Step 3 keeps every bit outside the named ones (R48). -/
theorem foldl_initChannel_unnamed (mask : BitVec 4) (chs : List Channel) (s : State)
    (r : WordReg) :
    (chs.foldl (initChannel mask) s).word r &&& ~~~ namedBits r =
      s.word r &&& ~~~ namedBits r := by
  induction chs generalizing s with
  | nil => rfl
  | cons ch chs ih => rw [List.foldl_cons, ih, initChannel_unnamed]

/-- What step 3 for one channel gives to channel `ch'` of the mask alone, step 3 over a list gives to
it when the list has it. -/
theorem foldl_initChannel_read {α : Type} {mask : BitVec 4} {ch' : Channel} {read : State → α}
    {v : α}
    (one : ∀ s ch, read (initChannel mask s ch) =
      if ch' = ch ∧ mask.getLsbD ch.maskBit = true then v else read s)
    (chs : List Channel) (s : State) :
    read (chs.foldl (initChannel mask) s) =
      if ch' ∈ chs ∧ mask.getLsbD ch'.maskBit = true then v else read s := by
  induction chs generalizing s with
  | nil => simp
  | cons ch chs ih =>
    rw [List.foldl_cons, ih, one]
    by_cases same : ch' = ch
    · subst same
      by_cases bound : mask.getLsbD ch'.maskBit = true <;> simp [bound]
    · simp [same]

theorem mem_channels (ch : Channel) : ch ∈ channels := by cases ch <;> decide

theorem foldl_initChannel_ocm (mask : BitVec 4) (s : State) (ch : Channel) :
    (channels.foldl (initChannel mask) s).field (.ocm ch) =
      if mask.getLsbD ch.maskBit = true then Config.ocmPwm1 else s.field (.ocm ch) := by
  simpa only [mem_channels, true_and] using
    foldl_initChannel_read (read := (State.field · (.ocm ch)))
      (fun s ch' => initChannel_ocm mask s ch' ch) channels s

theorem foldl_initChannel_ocpe (mask : BitVec 4) (s : State) (ch : Channel) :
    (channels.foldl (initChannel mask) s).field (.ocpe ch) =
      if mask.getLsbD ch.maskBit = true then 1 else s.field (.ocpe ch) := by
  simpa only [mem_channels, true_and] using
    foldl_initChannel_read (read := (State.field · (.ocpe ch)))
      (fun s ch' => initChannel_ocpe mask s ch' ch) channels s

/-- Settles O27: the words step 3 leaves in CCMR1 and CCMR2 are the witnesses, so that the state the
statement speaks of is the one the fold ends in. -/
theorem channelModesFollowTheMask : Obligations.ChannelModesFollowTheMask := by
  intro mask s
  have frame := foldl_initChannel_frame mask channels s
  refine ⟨_, _, frame, foldl_initChannel_unnamed mask channels s .ccmr1,
    foldl_initChannel_unnamed mask channels s .ccmr2, ?_, ?_⟩
  all_goals
    intro ch h
    rw [← frame, foldl_initChannel_ocm, foldl_initChannel_ocpe, h]
    exact ⟨rfl, rfl⟩

end Sys2Proof.Machine
end

section
/-! The channel check and what a channel command touches: its own channel's fields, and in every
other way the lifecycle and the response alone (R190, R191, R209). -/

namespace Sys2Proof

open Sys2Proof.Machine

/-! ## The channel check -/

theorem channelCommand_of_faulted {ch : Channel} {body : State → State} {s : State} {e : ErrorCode}
    (hl : s.life = .faulted e) : channelCommand ch body s = respond .faulted 0#32 s :=
  unlessFaulted_of_faulted hl

theorem channelCommand_of_unconfigured {ch : Channel} {body : State → State} {s : State}
    (hl : s.life = .unconfigured) :
    channelCommand ch body s = raiseFault .notInitialised s :=
  (unlessFaulted_of_not_faulted (isFaulted_eq_false_iff.2 (.inl hl))).trans (if_pos hl)

theorem channelCommand_of_unbound {ch : Channel} {body : State → State} {s : State}
    (hl : s.life = .running) (unbound : s.bound ch = false) :
    channelCommand ch body s = raiseFault .resourceConflict s := by
  rw [channelCommand, unlessFaulted_of_not_faulted (isFaulted_eq_false_iff.2 (.inr hl)),
    channelCheck, if_neg (by simp [hl]), if_neg (by simp [unbound]), refuse]

theorem maskBit_eq_number_sub_one (ch : Channel) : ch.maskBit = ch.number - 1 := by
  cases ch <;> rfl

theorem bound_of_mem_supportedSets {s : State} (h : s.chset ∈ Config.supportedSets)
    (ch : Channel) : s.bound ch = true := by
  rw [State.bound, mem_supportedSets_iff.1 h]
  cases ch <;> rfl

/-- Settles O31: both refusals are the fault of the channel check, whatever the command's effect. -/
theorem channelCheckRefuses : Obligations.ChannelCheckRefuses := by
  refine ⟨fun i ch s hc hl => ?_, fun i ch s hc hl unbound => ?_,
    fun s ch h => bound_of_mem_supportedSets h ch⟩
  all_goals obtain ⟨body, -, hx⟩ := exec_of_channel hc s
  · rw [hx, channelCommand_of_unconfigured hl, raiseFault_eq]
  · rw [← maskBit_eq_number_sub_one] at unbound
    rw [hx, channelCommand_of_unbound hl unbound, raiseFault_eq]

/-- Settles O36: the compare file after SET_DUTY has the value for channel 1 and the old one for
channel 2. -/
theorem setDutyOfChannelOneWritesCcr1 : Obligations.SetDutyOfChannelOneWritesCcr1 := by
  intro v s hl bound
  refine ⟨setDutyEffect .ch1 v s,
    congrArg Host.Outcome.next (channelCommand_of_running hl bound), ?_⟩
  rw [setDutyEffect_eq]
  exact ⟨rfl, rfl⟩

/-! ## The fields of a channel -/

/-- From `s` to `t` a command for channel `ch` wrote at most the lifecycle, the response, its own bits
of CCER, `CCR[ch]` and the shadow copy of `CCR[ch]` (R191; bit positions R41, where channel 4 has no
complementary bit). -/
structure WritesOnlyChannel (ch : Channel) (s t : State) : Prop where
  frame : t = { s with
    life := t.life, response := t.response, ccer := t.ccer, ccr := t.ccr, ccrSh := t.ccrSh }
  ccer : ∀ k, k ≠ 4 * (ch.number - 1) → ¬ (k = 4 * (ch.number - 1) + 2 ∧ ch ≠ .ch4) →
    t.ccer.getLsbD k = s.ccer.getLsbD k
  compare : ∀ ch', ch' ≠ ch → t.ccr.get ch' = s.ccr.get ch' ∧ t.ccrSh.get ch' = s.ccrSh.get ch'

theorem writesOnlyChannel_respond (ch : Channel) (st : Status) (d : Word) (s : State) :
    WritesOnlyChannel ch s (respond st d s) :=
  ⟨rfl, fun _ _ _ => rfl, fun _ _ => ⟨rfl, rfl⟩⟩

theorem writesOnlyChannel_raiseFault (ch : Channel) (e : ErrorCode) (s : State) :
    WritesOnlyChannel ch s (raiseFault e s) :=
  ⟨rfl, fun _ _ _ => rfl, fun _ _ => ⟨rfl, rfl⟩⟩

/-- An effect on CCER and the response alone keeps to its channel when it keeps the other bits of
the word. -/
theorem writesOnlyChannel_of_ccer {ch : Channel} {s t : State}
    (frame : t = { s with ccer := t.ccer, response := some ⟨.ok, 0⟩ })
    (bits : ∀ k < 32, k ≠ 4 * (ch.number - 1) → ¬ (k = 4 * (ch.number - 1) + 2 ∧ ch ≠ .ch4) →
      t.ccer.getLsbD k = s.ccer.getLsbD k) : WritesOnlyChannel ch s t := by
  refine ⟨?_, fun k cce ccne => ?_, fun ch' _ => ?_⟩
  · rw [frame]
  · rcases Nat.lt_or_ge k 32 with hk | hk
    · exact bits k hk cce ccne
    · rw [BitVec.getLsbD_of_ge _ _ hk, BitVec.getLsbD_of_ge _ _ hk]
  · rw [frame]
    exact ⟨rfl, rfl⟩

theorem writesOnlyChannel_enableEffect (ch : Channel) (s : State) :
    WritesOnlyChannel ch s (enableEffect ch s) :=
  writesOnlyChannel_of_ccer (enableEffect_frame ch s) fun k hk cce ccne => by
    rw [enableEffect_ccer_bit ch s k hk, if_neg cce, if_neg ccne]

theorem writesOnlyChannel_disableEffect (ch : Channel) (s : State) :
    WritesOnlyChannel ch s (disableEffect ch s) :=
  writesOnlyChannel_of_ccer (disableEffect_frame ch s) fun k hk cce _ => by
    rw [disableEffect_ccer_bit ch s k hk, if_neg cce]

theorem writesOnlyChannel_setDutyEffect (ch : Channel) (v : Half) (s : State) :
    WritesOnlyChannel ch s (setDutyEffect ch v s) := by
  rw [setDutyEffect_eq]
  refine ⟨rfl, fun _ _ _ => rfl, fun ch' other => ⟨CompareFile.get_set_apart _ _ _ _ other, ?_⟩⟩
  dsimp only
  split
  · exact CompareFile.get_set_apart _ _ _ _ other
  · rfl

/-- The effect of a command for channel `ch` keeps to the channel's own fields, and its answer is a
function of `CCR[ch]` and `ARR` (R191). -/
structure KeepsToChannel (ch : Channel) (body : State → State) : Prop where
  writes : ∀ s, WritesOnlyChannel ch s (body s)
  reads : ∀ s s', s.ccr.get ch = s'.ccr.get ch → s.arr = s'.arr →
    (body s).response = (body s').response

theorem keepsToChannel_enableEffect (ch : Channel) : KeepsToChannel ch (enableEffect ch) :=
  ⟨writesOnlyChannel_enableEffect ch, fun _ _ _ _ => rfl⟩

theorem keepsToChannel_disableEffect (ch : Channel) : KeepsToChannel ch (disableEffect ch) :=
  ⟨writesOnlyChannel_disableEffect ch, fun _ _ _ _ => rfl⟩

theorem keepsToChannel_getDutyEffect (ch : Channel) : KeepsToChannel ch (getDutyEffect ch) :=
  ⟨fun s => writesOnlyChannel_respond ch _ _ s, fun s s' ccr _ => by
    simp only [getDutyEffect, respond_response, regRead, ccr]⟩

theorem keepsToChannel_setDutyEffect (ch : Channel) (v : Half) :
    KeepsToChannel ch (setDutyEffect ch v) :=
  ⟨writesOnlyChannel_setDutyEffect ch v, fun _ _ _ _ => rfl⟩

theorem keepsToChannel_getMaxDutyEffect (ch : Channel) : KeepsToChannel ch getMaxDutyEffect :=
  ⟨fun s => writesOnlyChannel_respond ch _ _ s, fun s s' _ arr => by
    simp only [getMaxDutyEffect, respond_response, regRead, arr]⟩

/-- The command that names a channel is one channel command, in every state, and its effect keeps to
that channel. -/
theorem exec_keepsToChannel {i : Instr} {ch : Channel} (h : i.channel? = some ch) :
    ∃ body : State → State, KeepsToChannel ch body ∧
      ∀ s, exec i s = .next (channelCommand ch body s) := by
  cases i with
  | resolve => cases h
  | init mask => cases h
  | enable ch' => cases h; exact ⟨_, keepsToChannel_enableEffect ch, fun _ => rfl⟩
  | disable ch' => cases h; exact ⟨_, keepsToChannel_disableEffect ch, fun _ => rfl⟩
  | getDuty ch' => cases h; exact ⟨_, keepsToChannel_getDutyEffect ch, fun _ => rfl⟩
  | setDuty ch' v => cases h; exact ⟨_, keepsToChannel_setDutyEffect ch v, fun _ => rfl⟩
  | getMaxDuty ch' => cases h; exact ⟨_, keepsToChannel_getMaxDutyEffect ch, fun _ => rfl⟩

/-- The checks before the effect write the lifecycle and the response alone. -/
theorem writesOnlyChannel_channelCommand {ch : Channel} {body : State → State} {s : State}
    (h : WritesOnlyChannel ch s (body s)) : WritesOnlyChannel ch s (channelCommand ch body s) := by
  rcases channelCommand_cases ch body s with ⟨_, hx⟩ | ⟨_, hx⟩ | ⟨_, _, hx⟩ | ⟨_, _, hx⟩ <;> rw [hx]
  · exact writesOnlyChannel_respond ch _ _ s
  · exact writesOnlyChannel_raiseFault ch _ s
  · exact writesOnlyChannel_raiseFault ch _ s
  · exact h

/-- The checks before the effect read the lifecycle and the channel set alone. -/
theorem channelCommand_response_congr {ch : Channel} {body : State → State} {s s' : State}
    (life : s.life = s'.life) (chset : s.chset = s'.chset)
    (h : (body s).response = (body s').response) :
    (channelCommand ch body s).response = (channelCommand ch body s').response := by
  have bound : s.bound ch = s'.bound ch := by rw [State.bound, State.bound, chset]
  cases hl : s.life with
  | unconfigured =>
    rw [channelCommand_of_unconfigured hl, channelCommand_of_unconfigured (life ▸ hl)]
    rfl
  | faulted e =>
    rw [channelCommand_of_faulted hl, channelCommand_of_faulted (life ▸ hl)]
    rfl
  | running =>
    cases hb : s.bound ch with
    | false =>
      rw [channelCommand_of_unbound hl hb, channelCommand_of_unbound (life ▸ hl) (bound ▸ hb)]
      rfl
    | true =>
      rw [channelCommand_of_running hl hb, channelCommand_of_running (life ▸ hl) (bound ▸ hb)]
      exact h

/-- Settles O38: the effect of every channel command keeps to its channel, and the checks before it
add no other write and no other read than those of the lifecycle and the channel set. -/
theorem channelCommandsOwnTheirFields : Obligations.ChannelCommandsOwnTheirFields := by
  refine ⟨fun i ch s t hc h => ?_, fun i ch s s' t t' hc life chset ccr arr h h' => ?_⟩
  all_goals obtain ⟨body, own, hx⟩ := exec_keepsToChannel hc
  · obtain rfl := Host.Outcome.next.inj ((hx s).symm.trans h)
    obtain ⟨frame, ccer, compare⟩ := writesOnlyChannel_channelCommand (own.writes s)
    refine ⟨frame, fun k cce ccne => ccer k cce (mt And.left ccne), ?_, compare⟩
    rintro rfl
    exact ccer 14 (by decide) (by simp)
  · obtain rfl := Host.Outcome.next.inj ((hx s).symm.trans h)
    obtain rfl := Host.Outcome.next.inj ((hx s').symm.trans h')
    exact channelCommand_response_congr life chset (own.reads s s' ccr arr)

end Sys2Proof
end

section
/-! The update event and the counter agent's step, one equation per case (R230, R233). -/

namespace Sys2Proof.Machine

/-- The update event writes shadow copies, which no register read shows (R233). -/
@[simp] theorem regRead_updateEvent (r : Reg) (s : State) :
    regRead r (updateEvent s) = regRead r s := by
  cases r with
  | word r => exact updateEvent_word s r
  | psc => rfl
  | arr => rfl
  | egr => rfl
  | ccr ch => rfl

/-- Settles O43: the three loads are the whole of the update event, and no read sees them. -/
theorem updateEventLoadsTheShadows : Obligations.UpdateEventLoadsTheShadows :=
  fun s => ⟨rfl, fun r => regRead_updateEvent r s⟩

theorem cen_eq_zero_iff (s : State) : s.field .cen = 0 ↔ s.cr1.getLsbD 0 = false :=
  field_eq_zero_iff s .cen rfl

theorem cen_ne_zero_iff (s : State) : s.field .cen ≠ 0 ↔ s.cr1.getLsbD 0 = true := by
  rw [Ne, cen_eq_zero_iff, Bool.not_eq_false]

theorem tick_of_pscnt_lt {s : State} (cen : s.field .cen ≠ 0) (h : s.pscnt < s.pscSh) :
    tick s = { s with pscnt := s.pscnt + 1 } := by
  rw [tick, if_neg cen, if_pos h]

/-- At the end of the prescaler's division the TICK is one prescaled count. -/
theorem tick_of_pscSh_le {s : State} (cen : s.field .cen ≠ 0) (h : s.pscSh ≤ s.pscnt) :
    tick s = count { s with pscnt := 0#16 } := by
  rw [tick, if_neg cen, if_neg (BitVec.not_lt.2 h)]

theorem count_of_cnt_eq {s : State} (h : s.cnt = s.arrSh) :
    count s = { s with cnt := 0#16, pscSh := s.psc, arrSh := s.arr, ccrSh := s.ccr } :=
  if_pos h

theorem count_of_cnt_ne {s : State} (h : s.cnt ≠ s.arrSh) : count s = { s with cnt := s.cnt + 1 } :=
  if_neg h

theorem tick_of_wrap {s : State} (cen : s.field .cen ≠ 0) (h : s.pscSh ≤ s.pscnt)
    (wrap : s.cnt = s.arrSh) :
    tick s = { s with
      pscnt := 0#16, cnt := 0#16, pscSh := s.psc, arrSh := s.arr, ccrSh := s.ccr } :=
  (tick_of_pscSh_le cen h).trans (count_of_cnt_eq wrap)

theorem tick_of_count {s : State} (cen : s.field .cen ≠ 0) (h : s.pscSh ≤ s.pscnt)
    (ne : s.cnt ≠ s.arrSh) : tick s = { s with pscnt := 0#16, cnt := s.cnt + 1 } :=
  (tick_of_pscSh_le cen h).trans (count_of_cnt_ne ne)

theorem add_one_eq_ofNat_mod (x : Half) : x + 1 = BitVec.ofNat 16 ((x.toNat + 1) % 2 ^ 16) :=
  BitVec.eq_of_toNat_eq (by simp)

/-- Settles O44: a stopped TICK, one that divides, one that wraps and one that counts; a count that is
at most `ARR_sh` and differs from it is below it. -/
theorem tickDividesCountsAndWraps : Obligations.TickDividesCountsAndWraps := by
  refine fun s => ⟨fun stopped => ?_, fun cen below => ?_, fun cen done wrap => ?_,
    fun cen done ne => ?_, fun good ne => ?_⟩
  · exact tick_of_stopped ((cen_eq_zero_iff s).2 stopped)
  · exact tick_of_pscnt_lt ((cen_ne_zero_iff s).2 cen) below
  · exact tick_of_wrap ((cen_ne_zero_iff s).2 cen) done wrap
  · rw [tick_of_count ((cen_ne_zero_iff s).2 cen) done ne, add_one_eq_ofNat_mod]
  · exact Nat.lt_of_le_of_ne good.cnt (mt BitVec.eq_of_toNat_eq ne)

end Sys2Proof.Machine
end

section
/-! A channel whose output is enabled is in PWM mode 1: kept by every step, so true of every reachable
state (R195, R236). -/

namespace Sys2Proof

open Sys2Proof.Machine

/-- What `EnabledOnlyInPwmMode` reads: fields, the bound channels, and whether the block runs. -/
theorem enabledOnlyInPwmMode_congr {s t : State} (hs : EnabledOnlyInPwmMode s)
    (fields : ∀ f, t.field f = s.field f) (chset : t.chset = s.chset)
    (running : t.life = .running → s.life = .running) : EnabledOnlyInPwmMode t := by
  obtain ⟨enabled, bound⟩ := hs
  refine ⟨fun ch cce => ?_, fun hl ch hb => ?_⟩
  · rw [fields] at cce ⊢
    exact enabled ch cce
  · rw [fields]
    exact bound (running hl) ch (by rwa [State.bound, chset] at hb)

theorem enabledOnlyInPwmMode_respond {s : State} (hs : EnabledOnlyInPwmMode s) (st : Status)
    (d : Word) : EnabledOnlyInPwmMode (respond st d s) :=
  enabledOnlyInPwmMode_congr hs (field_respond st d s) rfl id

theorem enabledOnlyInPwmMode_raiseFault {s : State} (hs : EnabledOnlyInPwmMode s)
    (e : ErrorCode) : EnabledOnlyInPwmMode (raiseFault e s) :=
  enabledOnlyInPwmMode_congr hs (field_raiseFault e s) rfl (fun hl => by cases hl)

/-- INIT leaves every channel in PWM mode 1 (R165). -/
theorem ocm_handOver_initWrites (p r : Half) (s : State) (ch : Channel) :
    (handOver 0b1111#4 (initWrites 0b1111#4 p r s)).field (.ocm ch) = Config.ocmPwm1 := by
  rw [field_of_word (handOver_initWrites_word p r s _)]
  cases ch <;> decide

/-- ENABLE of a bound channel sets an enable bit whose channel is in PWM mode 1 (R165, R195). -/
theorem enabledOnlyInPwmMode_enableEffect {s : State} {ch : Channel}
    (hs : EnabledOnlyInPwmMode s) (hl : s.life = .running) (hb : s.bound ch = true) :
    EnabledOnlyInPwmMode (enableEffect ch s) := by
  obtain ⟨enabled, bound⟩ := hs
  have mode (ch' : Channel) := field_enableEffect ch s _ (ocm_not_in_ccer ch')
  refine ⟨fun ch' cce => ?_, fun _ ch' hb' => ?_⟩ <;> rw [mode]
  · by_cases same : ch' = ch
    · exact same ▸ bound hl ch hb
    · rw [cce_enableEffect, if_neg same] at cce
      exact enabled ch' cce
  · rw [enableEffect_frame] at hb'
    exact bound hl ch' hb'

/-- DISABLE only clears an enable bit (R198). -/
theorem enabledOnlyInPwmMode_disableEffect {s : State} (hs : EnabledOnlyInPwmMode s)
    (ch : Channel) : EnabledOnlyInPwmMode (disableEffect ch s) := by
  obtain ⟨enabled, bound⟩ := hs
  have mode (ch' : Channel) := field_disableEffect ch s _ (ocm_not_in_ccer ch')
  refine ⟨fun ch' cce => ?_, fun hl ch' hb' => ?_⟩ <;> rw [mode]
  · rw [cce_disableEffect] at cce
    split at cce
    · exact absurd cce (by decide)
    · exact enabled ch' cce
  · rw [disableEffect_frame] at hl hb'
    exact bound hl ch' hb'

theorem enabledOnlyInPwmMode_exec {s t : State} {i : Instr} (hs : EnabledOnlyInPwmMode s)
    (h : exec i s = .next t) : EnabledOnlyInPwmMode t := by
  rcases exec_cases i s t h with ⟨_, rfl⟩ | ⟨_, e, rfl⟩ | ⟨_, st, d, rfl⟩ | ⟨_, p, r, rfl⟩ |
    ⟨hl, ch, hb, rfl | rfl | ⟨v, rfl⟩⟩
  · exact enabledOnlyInPwmMode_respond hs _ _
  · exact enabledOnlyInPwmMode_raiseFault hs e
  · exact enabledOnlyInPwmMode_respond hs st d
  · exact ⟨fun ch _ => ocm_handOver_initWrites p r s ch,
      fun _ ch _ => ocm_handOver_initWrites p r s ch⟩
  · exact enabledOnlyInPwmMode_enableEffect hs hl hb
  · exact enabledOnlyInPwmMode_disableEffect hs ch
  · exact enabledOnlyInPwmMode_congr hs (field_setDutyEffect ch v s) (by rw [setDutyEffect_eq])
      (fun _ => hl)

theorem enabledOnlyInPwmMode_illegalCommand {s : State} (hs : EnabledOnlyInPwmMode s) :
    EnabledOnlyInPwmMode (illegalCommand s) := by
  unfold illegalCommand unlessFaulted
  split
  · exact enabledOnlyInPwmMode_respond hs _ _
  · exact enabledOnlyInPwmMode_raiseFault hs _

theorem enabledOnlyInPwmMode_step {s t : State} (hs : EnabledOnlyInPwmMode s)
    (h : step s = .next t) : EnabledOnlyInPwmMode t := by
  have next : EnabledOnlyInPwmMode (nextMove s).2 :=
    enabledOnlyInPwmMode_congr hs (nextMove_field s) (by rw [nextMove_frame])
      (fun hl => (nextMove_life s).symm.trans hl)
  rcases step_cases s t h with rfl | ⟨c, f, rfl⟩ | ⟨i, hi⟩ | rfl
  · exact enabledOnlyInPwmMode_congr next (field_tick _) (tick_chset _)
      (fun hl => (tick_life _).symm.trans hl)
  · exact enabledOnlyInPwmMode_congr next (field_drivePorts c f _) rfl id
  · exact enabledOnlyInPwmMode_exec next hi
  · exact enabledOnlyInPwmMode_illegalCommand next

theorem word_atReset (moves : List Move) (r : WordReg) :
    (atReset moves).word r = Config.resetWord r := by
  cases r <;> rfl

theorem cce_atReset (moves : List Move) (ch : Channel) :
    (atReset moves).field (.cce ch) = 0 := by
  rw [field_of_word (word_atReset moves _)]
  cases ch <;> decide

/-- At power-on reset no channel is enabled and the block does not run (R54; log 6). -/
theorem enabledOnlyInPwmMode_atReset (moves : List Move) :
    EnabledOnlyInPwmMode (atReset moves) := by
  refine ⟨fun ch cce => ?_, fun hl => by cases hl⟩
  exact absurd ((cce_atReset moves ch).symm.trans cce) (by decide)

theorem enabledOnlyInPwmMode_of_reachable {t : State} (h : Reachable t) :
    EnabledOnlyInPwmMode t :=
  reachable_of_invariant enabledOnlyInPwmMode_atReset (fun _ _ => enabledOnlyInPwmMode_step) h

/-! ## The reference level -/

theorem ocref_of_pwm1 {draw : Level} {ch : Channel} {s : State}
    (mode : s.field (.ocm ch) = Config.ocmPwm1) :
    ocref draw ch s = if s.cnt < s.ccrSh.get ch then .high else .low :=
  if_pos mode

theorem ocref_of_not_pwm1 {draw : Level} {ch : Channel} {s : State}
    (mode : s.field (.ocm ch) ≠ Config.ocmPwm1) : ocref draw ch s = draw :=
  if_neg mode

theorem out_of_not_enabled {draw : Level} {ch : Channel} {s : State}
    (h : s.field (.cce ch) ≠ 1) : out draw ch s = .off :=
  if_neg (mt And.right h)

/-- Settles O47: outside PWM mode 1 the level is the draw itself, and there a reachable state has the
channel's enable bit clear, so that its output is OFF. -/
theorem referenceLevelRule : Obligations.ReferenceLevelRule :=
  ⟨fun _ _ _ mode => ocref_of_pwm1 mode,
    fun _ _ l mode => ⟨l, ocref_of_not_pwm1 mode⟩,
    fun _ ch _ reach mode =>
      out_of_not_enabled (mt ((enabledOnlyInPwmMode_of_reachable reach).1 ch) mode)⟩

end Sys2Proof
end

section
/-! The FAULTED state: what a command word does in it, which steps lead into it, and what the counter
agent goes on to do (R262 to R264). -/

namespace Sys2Proof

open Sys2Proof.Machine

theorem presentWord_of_command {w : Word} {i : Instr} (h : decode w = .command i) (s : State) :
    presentWord w s = exec i s := by
  simp only [presentWord, h]

/-- A faulted block answers FAULTED to a word before it looks whether the word is legal (R264,
R265). -/
theorem presentWord_of_faulted {s : State} {e : ErrorCode} (hl : s.life = .faulted e) (w : Word) :
    presentWord w s = .next (respond .faulted 0 s) := by
  cases hw : decode w with
  | command i => rw [presentWord_of_command hw, exec_of_faulted i hl]
  | illegal why => rw [presentWord_of_illegal hw, illegalCommand, unlessFaulted_of_faulted hl]

theorem life_ne_of_into_faulted {s t : State} (before : s.life.isFaulted = false)
    (after : t.life.isFaulted = true) : t.life ≠ s.life :=
  fun same => Bool.false_ne_true (before.symm.trans (same ▸ after))

/-- A command that faults the block does nothing else: an effect that is carried out leaves the block
as it was, or running. -/
theorem exec_into_faulted {i : Instr} {s t : State} (before : s.life.isFaulted = false)
    (h : exec i s = .next t) (after : t.life.isFaulted = true) : ∃ e, t = raiseFault e s := by
  have changed := life_ne_of_into_faulted before after
  rcases exec_cases i s t h with ⟨faulted, _⟩ | ⟨_, fault⟩ | ⟨_, st, d, rfl⟩ | ⟨_, p, r, rfl⟩ |
    ⟨_, ch, _, rfl | rfl | ⟨v, rfl⟩⟩
  · cases before.symm.trans faulted
  · exact fault
  · exact absurd (respond_life st d s) changed
  · cases after
  · exact absurd (enableEffect_life ch s) changed
  · exact absurd (disableEffect_life ch s) changed
  · exact absurd (setDutyEffect_life ch v s) changed

/-- The step into FAULTED is a fault raised on the state with the word taken, and nothing else
(R262, R263). -/
theorem step_into_faulted {s t : State} (before : s.life.isFaulted = false)
    (h : step s = .next t) (after : t.life.isFaulted = true) :
    ∃ e, t = raiseFault e (nextMove s).2 := by
  have idle : (nextMove s).2.life.isFaulted = false := by rwa [nextMove_life]
  have changed := life_ne_of_into_faulted idle after
  rcases step_cases s t h with rfl | ⟨c, f, rfl⟩ | ⟨i, hi⟩ | rfl
  · exact absurd (tick_life _) changed
  · exact absurd (drivePorts_life c f _) changed
  · exact exec_into_faulted idle hi after
  · exact ⟨_, illegalCommand_of_not_faulted idle⟩

/-- The counter agent neither reads nor writes the lifecycle (R230, R264). -/
theorem tick_with_life (s : State) (l : Life) :
    tick { s with life := l } = { tick s with life := l } := by
  rcases tick_cases s with ⟨stopped, h⟩ | ⟨cen, below, h⟩ | ⟨cen, done, wrap, h⟩ |
    ⟨cen, done, ne, h⟩ <;> rw [h]
  · exact tick_of_stopped stopped
  · exact tick_of_pscnt_lt cen below
  · exact tick_of_wrap cen done wrap
  · exact tick_of_count cen done ne

/-- Settles O11: a step into FAULTED is a bare fault, so it keeps CEN and the count; from there on no
run writes CEN, which is 1 in a good running block and 0 in an unconfigured one. -/
theorem faultedBlockAnswersFaulted : Obligations.FaultedBlockAnswersFaulted := by
  refine ⟨fun s e w rest hl hs => ?_, fun s t e hl h => (run_of_faulted hl (.cons h (.nil t))).1,
    tick_with_life, fun s t before h after => ?_, fun s t u rs good hl h after run => ?_,
    fun s t u rs stopped hl h after run => ?_, fun s => rfl⟩
  · exact (step_of_command hs).trans
      (presentWord_of_faulted (s := { s with schedule := rest }) hl w)
  · obtain ⟨e, rfl⟩ := step_into_faulted before h after
    rw [field_raiseFault, nextMove_field]
  · obtain ⟨e, rfl⟩ := step_into_faulted (isFaulted_eq_false_iff.2 (.inr hl)) h after
    rw [(run_of_faulted (raiseFault_life e _) run).2, field_raiseFault, nextMove_field]
    exact (good hl).cen
  · obtain ⟨e, rfl⟩ := step_into_faulted (isFaulted_eq_false_iff.2 (.inl hl)) h after
    have cen : (raiseFault e (nextMove s).2).field .cen = 0 := by
      rw [field_raiseFault, nextMove_field, stopped hl]
    simpa only [raiseFault_cnt, raiseFault_pscnt, nextMove_frame] using
      run_of_faulted_stopped (raiseFault_life e _) cen run

end Sys2Proof
end

section
/-! The order of the checks of a command: FAULTED, legality, lifecycle and binding, resolution
(R265). -/

namespace Sys2Proof

open Sys2Proof.Machine

/-- Past the FAULTED check RESOLVE samples the operand ports (R140, R265). -/
theorem exec_resolve_of_not_faulted {s : State} (before : s.life.isFaulted = false) :
    exec .resolve s = .next (resolveResponse s.clkRate.toNat s.targetFreq.toNat s) :=
  congrArg Host.Outcome.next (unlessFaulted_of_not_faulted before)

/-- The word of a command that names a channel runs that channel's check first (R190, R265). -/
theorem presentWord_of_channel {w : Word} {i : Instr} {ch : Channel} (hw : decode w = .command i)
    (hc : i.channel? = some ch) (s : State) :
    ∃ body : State → State, presentWord w s = .next (channelCommand ch body s) := by
  obtain ⟨body, -, hx⟩ := exec_of_channel hc s
  exact ⟨body, (presentWord_of_command hw s).trans hx⟩

/-- The resolver's own checks in their order (R131, R133). -/
theorem resolve_eq_ite (c f : Nat) :
    resolve c f =
      if f = 0 then .err .configInvalid
      else if f > c then .err .configInvalid
      else if c / f / 65536 < 2 ^ 16 then
        .ok (BitVec.ofNat 16 (c / f / 65536)) (BitVec.ofNat 16 (c / f / (c / f / 65536 + 1) - 1))
      else .err .configImpossible := by
  split_ifs with zero above fit
  · exact resolve_of_invalid (.inl zero)
  · exact resolve_of_invalid (.inr above)
  · exact resolve_of_ticks_fit (Nat.pos_of_ne_zero zero) (Nat.le_of_not_gt above) (by omega)
  · exact resolve_of_ticks_not_fit (by omega)

/-- What RESOLVE answers for each answer of the resolver (R140). -/
theorem resolveResponse_response (c f : Nat) (s : State) :
    (resolveResponse c f s).response =
      if f = 0 then some ⟨.error .configInvalid, 0#32⟩
      else if f > c then some ⟨.error .configInvalid, 0#32⟩
      else if c / f / 65536 < 2 ^ 16 then
        some ⟨.ok, BitVec.ofNat 16 (c / f / 65536) ++
          BitVec.ofNat 16 (c / f / (c / f / 65536 + 1) - 1)⟩
      else some ⟨.error .configImpossible, 0#32⟩ := by
  rw [resolveResponse, resolve_eq_ite]
  split_ifs <;> rfl

/-- INIT past its lifecycle and mask checks is the resolver's answer: a fault, or the nine steps
(R161, R162). -/
theorem initWith_response_of_unconfigured {mask : BitVec 4} {s : State}
    (hl : s.life = .unconfigured) (supported : mask ∈ Config.supportedSets) (c f : Nat) :
    (initWith c f mask s).response =
      if f = 0 then some ⟨.error .configInvalid, 0#32⟩
      else if f > c then some ⟨.error .configInvalid, 0#32⟩
      else if c / f / 65536 < 2 ^ 16 then some ⟨.ok, mask.setWidth 32⟩
      else some ⟨.error .configImpossible, 0#32⟩ := by
  rw [initWith, if_neg (by simp [hl]), if_pos supported, resolve_eq_ite]
  split_ifs <;> rfl

/-- Settles O12: each clause is the check it names, passed by the checks before it. -/
theorem checksReportTheFirstFailure : Obligations.ChecksReportTheFirstFailure := by
  refine ⟨fun s w faulted => ?_, fun s w why before hw => ?_, fun s w mask hw conflict => ?_,
    fun s w i ch hw hc hl => ?_, fun s w i ch hw hc hl unbound => ?_, fun s w before hw => ?_,
    fun s w mask before hw => ?_, fun s c f => resolveResponse_response c f s,
    fun s c f mask hl supported => initWith_response_of_unconfigured hl supported c f⟩
  · obtain ⟨e, hl⟩ := isFaulted_iff.1 faulted
    exact ⟨_, presentWord_of_faulted hl w, rfl⟩
  · exact ⟨_, presentWord_of_illegal hw s,
      congrArg State.response (illegalCommand_of_not_faulted before)⟩
  · have before : s.life.isFaulted = false :=
      isFaulted_eq_false_iff.2 (conflict.symm.imp_left And.left)
    exact ⟨_, (presentWord_of_command hw s).trans (exec_init_of_not_faulted before mask),
      congrArg State.response (initWith_of_conflict (conflict.imp_right And.right) _ _)⟩
  · obtain ⟨body, hx⟩ := presentWord_of_channel hw hc s
    exact ⟨_, hx, congrArg State.response (channelCommand_of_unconfigured hl)⟩
  · obtain ⟨body, hx⟩ := presentWord_of_channel hw hc s
    exact ⟨_, hx, congrArg State.response (channelCommand_of_unbound hl unbound)⟩
  · rw [presentWord_of_command hw, exec_resolve_of_not_faulted before]
  · rw [presentWord_of_command hw, exec_init_of_not_faulted before]

end Sys2Proof
end

section
/-! What depends on the operand ports: RESOLVE and INIT sample them, every other state change of the
block commutes with driving them, and only the host writes them (R104, R297). -/

namespace Sys2Proof

open Sys2Proof.Machine

/-! ## State changes that neither read nor write the ports -/

/-- A state change that is the same whatever stands on the ports, and leaves there what stands. -/
def IgnoresPorts (change : State → State) : Prop :=
  ∀ (c f : BitVec Config.operandWidth) (s : State),
    change (drivePorts c f s) = drivePorts c f (change s)

theorem ignoresPorts_respond (st : Status) (d : Word) : IgnoresPorts (respond st d) :=
  fun _ _ _ => rfl

theorem ignoresPorts_raiseFault (e : ErrorCode) : IgnoresPorts (raiseFault e) :=
  fun _ _ _ => rfl

/-- A choice between two such changes is one, when the condition does not read the ports. -/
theorem ignoresPorts_ite {p : State → Prop} [DecidablePred p] {a b : State → State}
    (hp : ∀ c f s, p (drivePorts c f s) ↔ p s) (ha : IgnoresPorts a) (hb : IgnoresPorts b) :
    IgnoresPorts fun s => if p s then a s else b s := by
  intro c f s
  by_cases h : p s
  · simpa only [hp, h, if_true] using ha c f s
  · simpa only [hp, h, if_false] using hb c f s

/-! ## Checks -/

theorem ignoresPorts_unlessFaulted {body : State → State} (h : IgnoresPorts body) :
    IgnoresPorts (unlessFaulted body) :=
  ignoresPorts_ite (p := fun s => s.life.isFaulted = true) (fun _ _ _ => Iff.rfl)
    (ignoresPorts_respond _ _) h

theorem ignoresPorts_illegalCommand : IgnoresPorts illegalCommand :=
  ignoresPorts_unlessFaulted (ignoresPorts_raiseFault _)

theorem ignoresPorts_channelCommand {ch : Channel} {body : State → State} (h : IgnoresPorts body) :
    IgnoresPorts (channelCommand ch body) :=
  ignoresPorts_unlessFaulted <|
    ignoresPorts_ite (p := fun s => s.life = .unconfigured) (fun _ _ _ => Iff.rfl)
      (ignoresPorts_raiseFault _) <|
    ignoresPorts_ite (p := fun s => s.bound ch = true) (fun _ _ _ => Iff.rfl)
      h (ignoresPorts_raiseFault _)

/-! ## Effects -/

theorem ignoresPorts_enableEffect (ch : Channel) : IgnoresPorts (enableEffect ch) := by
  cases ch <;> exact fun _ _ _ => rfl

theorem ignoresPorts_disableEffect (ch : Channel) : IgnoresPorts (disableEffect ch) := by
  cases ch <;> exact fun _ _ _ => rfl

theorem ignoresPorts_getDutyEffect (ch : Channel) : IgnoresPorts (getDutyEffect ch) :=
  fun _ _ _ => rfl

theorem ignoresPorts_setDutyEffect (ch : Channel) (v : Half) :
    IgnoresPorts (setDutyEffect ch v) := by
  intro c f s
  rw [setDutyEffect_eq, setDutyEffect_eq, field_drivePorts]
  rfl

theorem ignoresPorts_getMaxDutyEffect : IgnoresPorts getMaxDutyEffect :=
  fun _ _ _ => rfl

theorem ignoresPorts_count : IgnoresPorts count :=
  ignoresPorts_ite (p := fun s => s.cnt = s.arrSh) (fun _ _ _ => Iff.rfl)
    (fun _ _ _ => rfl) (fun _ _ _ => rfl)

theorem ignoresPorts_tick : IgnoresPorts tick :=
  ignoresPorts_ite (p := fun s => s.field .cen = 0) (fun _ _ _ => by rw [field_drivePorts])
    (fun _ _ _ => rfl) <|
  ignoresPorts_ite (p := fun s => s.pscnt < s.pscSh) (fun _ _ _ => Iff.rfl)
    (fun _ _ _ => rfl) (fun c f s => ignoresPorts_count c f { s with pscnt := 0#16 })

/-! ## Commands -/

/-- The commands other than RESOLVE and INIT are the channel commands, and those ignore the ports. -/
theorem exec_ignoresPorts {i : Instr} (notResolve : i ≠ .resolve)
    (notInit : ∀ mask, i ≠ .init mask) :
    ∃ change, IgnoresPorts change ∧ ∀ s, exec i s = .next (change s) := by
  cases i with
  | resolve => exact absurd rfl notResolve
  | init mask => exact absurd rfl (notInit mask)
  | enable ch =>
    exact ⟨_, ignoresPorts_channelCommand (ignoresPorts_enableEffect ch), fun _ => rfl⟩
  | disable ch =>
    exact ⟨_, ignoresPorts_channelCommand (ignoresPorts_disableEffect ch), fun _ => rfl⟩
  | getDuty ch =>
    exact ⟨_, ignoresPorts_channelCommand (ignoresPorts_getDutyEffect ch), fun _ => rfl⟩
  | setDuty ch v =>
    exact ⟨_, ignoresPorts_channelCommand (ignoresPorts_setDutyEffect ch v), fun _ => rfl⟩
  | getMaxDuty ch =>
    exact ⟨_, ignoresPorts_channelCommand (ch := ch) ignoresPorts_getMaxDutyEffect, fun _ => rfl⟩

theorem presentWord_ignoresPorts {w : Word} (notResolve : decode w ≠ .command .resolve)
    (notInit : ∀ mask, decode w ≠ .command (.init mask)) :
    ∃ change, IgnoresPorts change ∧ ∀ s, presentWord w s = .next (change s) := by
  cases hw : decode w with
  | command i =>
    obtain ⟨change, ignores, hx⟩ := exec_ignoresPorts (i := i)
      (by rintro rfl; exact notResolve hw) (by rintro mask rfl; exact notInit mask hw)
    exact ⟨change, ignores, fun s => (presentWord_of_command hw s).trans (hx s)⟩
  | illegal why => exact ⟨_, ignoresPorts_illegalCommand, presentWord_of_illegal hw⟩

/-- INIT of a running block is refused before it samples the ports (R161). -/
theorem exec_init_of_running {s : State} (hl : s.life = .running) (mask : BitVec 4) :
    exec (.init mask) s = .next (raiseFault .resourceConflict s) := by
  rw [exec_init_of_not_faulted (isFaulted_eq_false_iff.2 (.inr hl)),
    initWith_of_conflict (.inl hl)]

/-- No command drives the ports (R104). -/
theorem exec_keeps_ports {i : Instr} {s t : State} (h : exec i s = .next t) :
    t.clkRate = s.clkRate ∧ t.targetFreq = s.targetFreq := by
  rcases exec_cases i s t h with ⟨_, rfl⟩ | ⟨_, e, rfl⟩ | ⟨_, st, d, rfl⟩ | ⟨_, p, r, rfl⟩ |
    ⟨_, ch, _, rfl | rfl | ⟨v, rfl⟩⟩
  · exact ⟨rfl, rfl⟩
  · exact ⟨rfl, rfl⟩
  · exact ⟨rfl, rfl⟩
  · rw [handOver_initWrites]
    exact ⟨rfl, rfl⟩
  · rw [enableEffect_frame]
    exact ⟨rfl, rfl⟩
  · rw [disableEffect_frame]
    exact ⟨rfl, rfl⟩
  · rw [setDutyEffect_eq]
    exact ⟨rfl, rfl⟩

/-- Settles O15: RESOLVE and INIT of a block that is not faulted sample the ports; every other word,
TICK, and the refusal of a second INIT commute with driving them. -/
theorem portsOnlyMatterToResolveAndInit : Obligations.PortsOnlyMatterToResolveAndInit := by
  refine ⟨fun s t w c f notResolve notInit h => ?_, fun s c f before => ⟨?_, fun mask => ?_⟩,
    fun i s t h => exec_keeps_ports h, fun s c f => ignoresPorts_tick c f s,
    fun mask s t c f hl h => ?_⟩
  · obtain ⟨change, ignores, hx⟩ := presentWord_ignoresPorts notResolve notInit
    obtain rfl := Host.Outcome.next.inj ((hx s).symm.trans h)
    rw [hx, ignores]
  · exact exec_resolve_of_not_faulted (s := drivePorts c f s) before
  · exact exec_init_of_not_faulted (s := drivePorts c f s) before mask
  · obtain rfl := Host.Outcome.next.inj ((exec_init_of_running hl mask).symm.trans h)
    rw [exec_init_of_running (s := drivePorts c f s) hl, ignoresPorts_raiseFault]

end Sys2Proof
end

section
/-! Decoder and encoder are inverse to each other, and a command's word lies in its own row of the
opcode table and in no other (R107, R112, R113). -/

namespace Sys2Proof

open Sys2Proof.Machine

/-! ## Decoder and encoder -/

/-- The mask field of an `init` word is the mask, and the twelve bits above it are zero (R106). -/
theorem maskField_setWidth (mask : BitVec 4) :
    (mask.setWidth 16).extractLsb' 4 12 = 0 ∧ (mask.setWidth 16).extractLsb' 0 4 = mask := by
  revert mask
  decide

/-- Settles O2: each of the four fields of an encoded word reads back as it was written, so the
decoder takes the branch of the command's own opcode. -/
theorem decodeOfEncodeIsTheCommand : Obligations.DecodeOfEncodeIsTheCommand := by
  intro i
  cases i with
  | resolve => simp [encode, decode, withDataZero, Channel.field]
  | init mask =>
    obtain ⟨above, low⟩ := maskField_setWidth mask
    simp [encode, decode, Channel.field, low, above]
  | enable ch => simp [encode, decode, withDataZero]
  | disable ch => simp [encode, decode, withDataZero]
  | getDuty ch => simp [encode, decode, withDataZero]
  | setDuty ch value => simp [encode, decode]
  | getMaxDuty ch => simp [encode, decode, withDataZero]

theorem setWidth_extractLsb'_of_high_zero (d : Half) (h : d.extractLsb' 4 12 = 0) :
    (d.extractLsb' 0 4).setWidth 16 = d := by
  simp only [BitVec.toNat_eq, BitVec.extractLsb'_toNat, BitVec.toNat_setWidth,
    BitVec.toNat_ofNat, Nat.shiftRight_eq_div_pow, BitVec.ofNat_eq_ofNat] at h ⊢
  omega

/-- A word with the fields of a command is the word of one (R102, R113). -/
theorem exists_encode_of_legalFields {w : Word} (h : LegalFields w) : ∃ i, encode i = w := by
  obtain ⟨rsv, fields⟩ := h
  have word := eq_enc_of_fields w rsv
  have op {n : BitVec 4} (hn : (opField w).toNat = n.toNat) : opField w = n :=
    BitVec.eq_of_toNat_eq hn
  rcases fields with ⟨hop, ch, data⟩ | ⟨hop, ch, data⟩ | ⟨hop | hop | hop | hop, data⟩ | hop
  · rw [op (n := 1) hop, ch, data] at word
    exact ⟨.resolve, word.symm⟩
  · rw [op (n := 2) hop, ch, ← setWidth_extractLsb'_of_high_zero _ data] at word
    exact ⟨.init ((dataField w).extractLsb' 0 4), word.symm⟩
  · rw [op (n := 3) hop, data] at word
    exact ⟨.enable _, word.symm⟩
  · rw [op (n := 4) hop, data] at word
    exact ⟨.disable _, word.symm⟩
  · rw [op (n := 5) hop, data] at word
    exact ⟨.getDuty _, word.symm⟩
  · rw [op (n := 7) hop, data] at word
    exact ⟨.getMaxDuty _, word.symm⟩
  · rw [op (n := 6) hop] at word
    exact ⟨.setDuty _ _, word.symm⟩

/-- Settles O3: a legal word is the word of some command, which by the round trip is the command it
decodes to. -/
theorem encodeOfDecodeIsTheWord : Obligations.EncodeOfDecodeIsTheWord := by
  intro w i hw
  obtain ⟨j, rfl⟩ := exists_encode_of_legalFields ((decode_legal_iff w).1 ⟨i, hw⟩)
  rw [Decoded.command.inj ((decodeOfEncodeIsTheCommand j).symm.trans hw)]

/-! ## The rows of the opcode table -/

theorem rowMatch (i : Instr) : Laws.RowMatch.Statement i := by
  cases i with
  | resolve => exact Laws.RowMatch.resolve
  | init mask => exact Laws.RowMatch.init mask
  | enable ch => exact Laws.RowMatch.enable ch
  | disable ch => exact Laws.RowMatch.disable ch
  | getDuty ch => exact Laws.RowMatch.getDuty ch
  | setDuty ch value => exact Laws.RowMatch.setDuty ch value
  | getMaxDuty ch => exact Laws.RowMatch.getMaxDuty ch

/-- Every row fixes the whole opcode. -/
theorem opField_mask_of_mem : ∀ r ∈ opcodeTable, opField r.mask = BitVec.allOnes 4 := by decide

theorem opField_of_covers {r : OpcodeRow} {w : Word} (hr : r ∈ opcodeTable)
    (h : r.covers w = true) : opField w = opField r.matchWord := by
  obtain ⟨op, -⟩ := (covers_iff_fields r w).1 h
  rwa [and_of_eq_allOnes _ (opField_mask_of_mem r hr)] at op

/-- No two rows have the same opcode (R102). -/
theorem row_eq_of_opField_eq : ∀ r ∈ opcodeTable, ∀ r' ∈ opcodeTable,
    opField r'.matchWord = opField r.matchWord → r' = r := by decide

/-- The rows that cover a word are the one row that does. -/
theorem filter_covers_eq_singleton {r : OpcodeRow} {w : Word} (hr : r ∈ opcodeTable)
    (h : r.covers w = true) : opcodeTable.filter (fun r => r.covers w) = [r] := by
  have nodup : opcodeTable.Nodup := by decide
  have only : ∀ r' ∈ opcodeTable, r'.covers w = decide (r' = r) := fun r' hr' => by
    rw [Bool.eq_iff_iff, decide_eq_true_iff]
    exact ⟨fun h' => row_eq_of_opField_eq r hr r' hr'
      ((opField_of_covers hr' h').symm.trans (opField_of_covers hr h)), fun same => same ▸ h⟩
  rw [List.filter_congr only, List.filter_eq, List.count_eq_one_of_mem nodup hr,
    List.replicate_one]

/-- Settles O5: a legal word is covered by the row of its command, the opcode tells the rows apart,
and a covered word would be legal. -/
theorem oneRowCoversEachLegalWord : Obligations.OneRowCoversEachLegalWord := by
  intro w
  split
  next i hw =>
    obtain ⟨r, hr, mnemonic, covers⟩ := rowMatch i
    rw [encodeOfDecodeIsTheWord w i hw] at covers
    exact ⟨r, filter_covers_eq_singleton hr covers, mnemonic⟩
  next why hw =>
    rw [List.filter_eq_nil_iff]
    intro r hr covers
    exact (decode_illegal_iff w).1 ⟨why, hw⟩ ((covered_iff w).1 ⟨r, hr, covers⟩)

/-! ## Sample words and assembly lines -/

/-- Settles O1: each word is decoded as it stands. -/
theorem sampleWordsDecode : Obligations.SampleWordsDecode := by
  unfold Obligations.SampleWordsDecode
  decide

@[simp] theorem ofNumber_number (ch : Channel) : Channel.ofNumber ch.number = some ch := by
  cases ch <;> rfl

/-- A command's line carries numbers that fit their fields (R115). -/
theorem wellFormed_toLine (i : Instr) : i.toLine.wellFormed = true := by
  cases i with
  | init mask => simp only [Instr.toLine, AsmLine.wellFormed, decide_eq_true_iff]; omega
  | setDuty ch value => simp [Instr.toLine, AsmLine.wellFormed, value.isLt]
  | _ => simp [Instr.toLine, AsmLine.wellFormed]

/-- Settles O6: the line is well-formed, and each number on it names the operand it was made from.
-/
theorem assemblerEmitsTheWord : Obligations.AssemblerEmitsTheWord := by
  refine fun i => ⟨wellFormed_toLine i, ?_⟩
  unfold assembleLine
  rw [if_pos (wellFormed_toLine i)]
  cases i <;> simp [Instr.toLine, onChannel]

end Sys2Proof
end

section
/-! The place of the counter in the period in use: the number of TICKs since the period's start,
what one TICK does to it, and what holds of the TICKs up to the period's end (R230, R231, R233). -/

namespace Sys2Proof.Machine

theorem zero_le_half (x : Half) : 0#16 ≤ x := Nat.zero_le x.toNat

/-- The counter counts, and stands inside the period in use. -/
structure InPeriod (s : State) : Prop where
  cen : s.field .cen = 1
  pscnt : s.pscnt ≤ s.pscSh
  cnt : s.cnt ≤ s.arrSh

/-- TICKs made since the start of the period in use (R231). -/
def elapsed (s : State) : Nat := s.cnt.toNat * (s.pscSh.toNat + 1) + s.pscnt.toNat

theorem elapsed_of_start {s : State} (cnt : s.cnt = 0#16) (pscnt : s.pscnt = 0#16) :
    elapsed s = 0 := by
  simp [elapsed, cnt, pscnt]

theorem inPeriod_of_start {s : State} (cen : s.field .cen = 1) (cnt : s.cnt = 0#16)
    (pscnt : s.pscnt = 0#16) : InPeriod s :=
  ⟨cen, pscnt ▸ zero_le_half _, cnt ▸ zero_le_half _⟩

theorem cnt_eq_elapsed_div {s : State} (h : InPeriod s) :
    s.cnt.toNat = elapsed s / (s.pscSh.toNat + 1) := by
  have below : s.pscnt.toNat < s.pscSh.toNat + 1 := Nat.lt_succ_of_le h.pscnt
  rw [elapsed, Nat.mul_comm, Nat.mul_add_div (Nat.succ_pos _), Nat.div_eq_of_lt below, Nat.add_zero]

theorem pscnt_eq_elapsed_mod {s : State} (h : InPeriod s) :
    s.pscnt.toNat = elapsed s % (s.pscSh.toNat + 1) := by
  have below : s.pscnt.toNat < s.pscSh.toNat + 1 := Nat.lt_succ_of_le h.pscnt
  rw [elapsed, Nat.mul_comm, Nat.mul_add_mod, Nat.mod_eq_of_lt below]

/-- One count takes `P + 1` TICKs, so the counts up to `cnt` end within the period's `A + 1`. -/
theorem counts_le_periodTicks {s : State} {n : Nat} (h : n ≤ s.arrSh.toNat + 1) :
    n * (s.pscSh.toNat + 1) ≤ periodTicks s := by
  rw [periodTicks, Nat.mul_comm]
  exact Nat.mul_le_mul_left _ h

theorem elapsed_lt_periodTicks {s : State} (h : InPeriod s) : elapsed s < periodTicks s := by
  have pscnt : s.pscnt.toNat ≤ s.pscSh.toNat := h.pscnt
  have counts := counts_le_periodTicks (s := s) (Nat.succ_le_succ h.cnt)
  rw [Nat.succ_mul] at counts
  simp only [elapsed]
  omega

theorem toNat_add_one_of_lt {x y : Half} (h : x < y) : (x + 1).toNat = x.toNat + 1 := by
  bv_omega

/-- A count that stays within the reload and a prescaler count that stays within the prescaler are a
place of the period in use. -/
theorem elapsed_succ_of_tick {s : State} {c p : Half} (cen : s.field .cen = 1)
    (ht : tick s = { s with cnt := c, pscnt := p }) (hc : c ≤ s.arrSh) (hp : p ≤ s.pscSh)
    (one : c.toNat * (s.pscSh.toNat + 1) + p.toNat = elapsed s + 1) :
    elapsed s + 1 < periodTicks s ∧ InPeriod (tick s) ∧ elapsed (tick s) = elapsed s + 1 ∧
      tick s = { s with cnt := (tick s).cnt, pscnt := (tick s).pscnt } := by
  rw [ht]
  have inside : InPeriod { s with cnt := c, pscnt := p } := ⟨cen, hp, hc⟩
  exact ⟨one ▸ elapsed_lt_periodTicks inside, inside, one, rfl⟩

/-- One TICK inside the period in use: the next place of it, or the start of the next period, with
the shadow copies loaded (R230, R233). -/
theorem tick_of_inPeriod {s : State} (h : InPeriod s) :
    (elapsed s + 1 < periodTicks s ∧ InPeriod (tick s) ∧ elapsed (tick s) = elapsed s + 1 ∧
      tick s = { s with cnt := (tick s).cnt, pscnt := (tick s).pscnt }) ∨
    (elapsed s + 1 = periodTicks s ∧
      tick s = { s with
        pscnt := 0, cnt := 0, pscSh := s.psc, arrSh := s.arr, ccrSh := s.ccr }) := by
  obtain ⟨cen, hp, hc⟩ := h
  rcases tick_cases s with ⟨stopped, -⟩ | ⟨-, below, ht⟩ | ⟨-, done, wrap, ht⟩ | ⟨-, done, ne, ht⟩
  · rw [cen] at stopped
    exact absurd stopped (by decide)
  · have next := toNat_add_one_of_lt below
    refine .inl (elapsed_succ_of_tick cen ht hc ?_ ?_)
    · rw [BitVec.le_def, next]
      exact below
    · rw [next, elapsed, Nat.add_assoc]
  · have last : s.pscnt = s.pscSh := BitVec.le_antisymm hp done
    refine .inr ⟨?_, ht⟩
    rw [elapsed, periodTicks, last, wrap]
    ring
  · have last : s.pscnt = s.pscSh := BitVec.le_antisymm hp done
    have below : s.cnt < s.arrSh := BitVec.lt_of_le_ne hc ne
    have next := toNat_add_one_of_lt below
    refine .inl (elapsed_succ_of_tick cen ht ?_ (zero_le_half _) ?_)
    · rw [BitVec.le_def, next]
      exact below
    · rw [next, elapsed, last, Nat.succ_mul]
      rfl

/-- Every TICK keeps the counter inside the period in use. -/
theorem inPeriod_tick {s : State} (h : InPeriod s) : InPeriod (tick s) := by
  rcases tick_of_inPeriod h with ⟨-, inside, -⟩ | ⟨-, ht⟩
  · exact inside
  · rw [ht]
    exact ⟨h.cen, zero_le_half _, zero_le_half _⟩

theorem inPeriod_ticks {s : State} (h : InPeriod s) (n : Nat) : InPeriod (ticks n s) := by
  induction n with
  | zero => exact h
  | succ n ih =>
    rw [ticks_succ]
    exact inPeriod_tick ih

/-- Until the end of the period in use the TICKs move the counter and change nothing else. -/
theorem ticks_within_period {s : State} (h : InPeriod s) {n : Nat}
    (hn : elapsed s + n < periodTicks s) :
    elapsed (ticks n s) = elapsed s + n ∧
      ticks n s = { s with cnt := (ticks n s).cnt, pscnt := (ticks n s).pscnt } := by
  induction n with
  | zero => exact ⟨rfl, rfl⟩
  | succ n ih =>
    obtain ⟨place, frame⟩ := ih (by omega)
    have period : periodTicks (ticks n s) = periodTicks s := by rw [frame]; rfl
    rw [ticks_succ]
    rcases tick_of_inPeriod (inPeriod_ticks h n) with ⟨-, -, next, ht⟩ | ⟨last, -⟩
    · refine ⟨by omega, ?_⟩
      rw [ht, frame]
    · omega

/-- The TICK that ends the period in use loads the shadow copies from the registers (R233). -/
theorem ticks_to_period_end {s : State} (h : InPeriod s) {n : Nat}
    (hn : elapsed s + n = periodTicks s) :
    ticks n s = { s with
      pscnt := 0, cnt := 0, pscSh := s.psc, arrSh := s.arr, ccrSh := s.ccr } := by
  have started := elapsed_lt_periodTicks h
  obtain ⟨m, rfl⟩ : ∃ m, n = m + 1 := ⟨n - 1, by omega⟩
  obtain ⟨place, frame⟩ := ticks_within_period h (n := m) (by omega)
  have period : periodTicks (ticks m s) = periodTicks s := by rw [frame]; rfl
  rw [ticks_succ]
  rcases tick_of_inPeriod (inPeriod_ticks h m) with ⟨inside, -⟩ | ⟨-, ht⟩
  · omega
  · rw [ht, frame]

/-! ## Whole periods -/

/-- With the prescaler and the period in use those of the registers, one period is like the next:
the place in it goes on modulo its length, and the compare values in use change at its first end
alone. -/
theorem ticks_of_same_period {s : State} (h : InPeriod s) (psc : s.pscSh = s.psc)
    (arr : s.arrSh = s.arr) (n : Nat) :
    elapsed (ticks n s) = (elapsed s + n) % periodTicks s ∧
    ticks n s = { s with
      cnt := (ticks n s).cnt, pscnt := (ticks n s).pscnt
      ccrSh := if elapsed s + n < periodTicks s then s.ccrSh else s.ccr } := by
  induction n using Nat.strong_induction_on generalizing s with
  | _ n ih =>
    by_cases inside : elapsed s + n < periodTicks s
    · obtain ⟨place, frame⟩ := ticks_within_period h inside
      exact ⟨by rw [place, Nat.mod_eq_of_lt inside], by rw [if_pos inside]; exact frame⟩
    · have started := elapsed_lt_periodTicks h
      obtain ⟨left, hleft⟩ := Nat.exists_eq_add_of_lt started
      obtain ⟨m, rfl⟩ := Nat.exists_eq_add_of_le (show left + 1 ≤ n by omega)
      obtain ⟨place, frame⟩ := ih m (by omega)
        (s := { s with pscnt := 0, cnt := 0, pscSh := s.psc, arrSh := s.arr, ccrSh := s.ccr })
        (inPeriod_of_start h.cen rfl rfl) rfl rfl
      rw [ticks_add, ticks_to_period_end h (by omega), if_neg inside]
      refine ⟨?_, ?_⟩
      · rw [place, elapsed_of_start rfl rfl, Nat.zero_add, ← Nat.add_assoc, ← Nat.add_assoc,
          ← hleft, Nat.add_mod_left, periodTicks, periodTicks, psc, arr]
      · rw [frame, ite_self, psc, arr]

/-- Settles O45: the place in the period is `n` modulo its length, and count and prescaler count are
the digits of the place. -/
theorem counterIsPeriodic : Obligations.CounterIsPeriodic := by
  intro s n cen cnt pscnt psc arr
  have start := inPeriod_of_start cen cnt pscnt
  obtain ⟨place, frame⟩ := ticks_of_same_period start psc arr n
  rw [elapsed_of_start cnt pscnt, Nat.zero_add] at place frame
  have pscSh : (ticks n s).pscSh = s.pscSh := by rw [frame]
  have inside := inPeriod_ticks start n
  refine ⟨?_, ?_, pscSh, by rw [frame], by rw [frame]⟩
  · rw [cnt_eq_elapsed_div inside, place, pscSh, periodTicks, Nat.mod_mul_right_div_self]
  · rw [pscnt_eq_elapsed_mod inside, place, pscSh, periodTicks, Nat.mod_mul_right_mod]

/-! ## The duty -/

theorem countP_lt_range (m n : Nat) : (List.range n).countP (fun k => k < m) = min m n := by
  induction n with
  | zero => simp
  | succ n ih =>
    rw [List.range_succ, List.countP_append, ih]
    by_cases h : n < m <;> simp [h] <;> omega

theorem ocref_high_iff {draw : Level} {ch : Channel} {s : State}
    (mode : s.field (.ocm ch) = Config.ocmPwm1) :
    ocref draw ch s = .high ↔ s.cnt < s.ccrSh.get ch := by
  rw [ocref_of_pwm1 mode]
  split <;> simp_all

/-- From the start of a period a channel in PWM mode 1 is high for the first `c` counts, which are
`c * (P + 1)` TICKs. -/
theorem ocref_ticks_high_iff {s : State} {ch : Channel} (draw : Level) (cen : s.field .cen = 1)
    (cnt : s.cnt = 0#16) (pscnt : s.pscnt = 0#16) (mode : s.field (.ocm ch) = Config.ocmPwm1)
    {n : Nat} (hn : n < periodTicks s) :
    ocref draw ch (ticks n s) = .high ↔ n < (s.ccrSh.get ch).toNat * (s.pscSh.toNat + 1) := by
  have start := inPeriod_of_start cen cnt pscnt
  obtain ⟨place, frame⟩ :=
    ticks_within_period start (n := n) (by rwa [elapsed_of_start cnt pscnt, Nat.zero_add])
  rw [elapsed_of_start cnt pscnt, Nat.zero_add] at place
  have pscSh : (ticks n s).pscSh = s.pscSh := by rw [frame]
  have ccrSh : (ticks n s).ccrSh = s.ccrSh := by rw [frame]
  have count := cnt_eq_elapsed_div (inPeriod_ticks start n)
  rw [place, pscSh] at count
  rw [ocref_high_iff ((ticks_field n s _).trans mode), ccrSh, BitVec.lt_def, count,
    Nat.div_lt_iff_lt_mul (Nat.succ_pos _)]

/-- Settles O46: of the period's TICKs those below `c * (P + 1)` are the high ones. -/
theorem highTicksPerPeriod : Obligations.HighTicksPerPeriod := by
  intro s ch draw cen cnt pscnt mode
  have high : ∀ n ∈ List.range (periodTicks s),
      (ocref (draw n) ch (ticks n s) == .high) =
        decide (n < (s.ccrSh.get ch).toNat * (s.pscSh.toNat + 1)) := fun n hn => by
    rw [Bool.eq_iff_iff, beq_iff_eq, decide_eq_true_iff]
    exact ocref_ticks_high_iff (draw n) cen cnt pscnt mode (List.mem_range.1 hn)
  calc (List.range (periodTicks s)).countP (fun n => ocref (draw n) ch (ticks n s) == .high)
      = (List.range (periodTicks s)).countP
          (fun n => n < (s.ccrSh.get ch).toNat * (s.pscSh.toNat + 1)) :=
        List.countP_congr fun n hn => by rw [high n hn]
    _ = min ((s.ccrSh.get ch).toNat * (s.pscSh.toNat + 1)) (periodTicks s) := countP_lt_range _ _
    _ = (s.pscSh.toNat + 1) * highCounts (s.ccrSh.get ch).toNat s.arrSh.toNat := by
        rw [highCounts, periodTicks, Nat.mul_comm, Nat.mul_min_mul_left]

end Sys2Proof.Machine
end

section
/-! What every step keeps. A property survives every step when it survives each of the things a step
can do, as `step_cases` and `exec_cases` list them (R91, R298). -/

namespace Sys2Proof

open Sys2Proof.Machine

/-- The property survives everything a step can do. -/
structure KeptByMoves (P : State → Prop) : Prop where
  taken : ∀ s moves, P s → P { s with schedule := moves }
  tick : ∀ s, P s → P (tick s)
  ports : ∀ c f s, P s → P (drivePorts c f s)
  respond : ∀ st d s, P s → P (respond st d s)
  fault : ∀ e s, P s → P (raiseFault e s)
  init : ∀ p r s, s.life = .unconfigured → P s →
    P (handOver 0b1111#4 (initWrites 0b1111#4 p r s))
  enable : ∀ ch s, s.life = .running → s.bound ch = true → P s → P (enableEffect ch s)
  disable : ∀ ch s, s.life = .running → s.bound ch = true → P s → P (disableEffect ch s)
  setDuty : ∀ ch v s, s.life = .running → s.bound ch = true → P s → P (setDutyEffect ch v s)

theorem KeptByMoves.exec {P : State → Prop} (kept : KeptByMoves P) {i : Instr} {s t : State}
    (hs : P s) (h : exec i s = .next t) : P t := by
  rcases exec_cases i s t h with ⟨_, rfl⟩ | ⟨_, e, rfl⟩ | ⟨_, st, d, rfl⟩ | ⟨hl, p, r, rfl⟩ |
    ⟨hl, ch, hb, rfl | rfl | ⟨v, rfl⟩⟩
  · exact kept.respond _ _ s hs
  · exact kept.fault e s hs
  · exact kept.respond st d s hs
  · exact kept.init p r s hl hs
  · exact kept.enable ch s hl hb hs
  · exact kept.disable ch s hl hb hs
  · exact kept.setDuty ch v s hl hb hs

theorem KeptByMoves.illegalCommand {P : State → Prop} (kept : KeptByMoves P) {s : State}
    (hs : P s) : P (illegalCommand s) := by
  unfold Machine.illegalCommand unlessFaulted
  split
  · exact kept.respond _ _ s hs
  · exact kept.fault _ s hs

theorem KeptByMoves.step {P : State → Prop} (kept : KeptByMoves P) (s t : State) (hs : P s)
    (h : step s = .next t) : P t := by
  have next : P (nextMove s).2 := by
    rw [nextMove_frame]
    exact kept.taken s _ hs
  rcases step_cases s t h with rfl | ⟨c, f, rfl⟩ | ⟨i, hi⟩ | rfl
  · exact kept.tick _ next
  · exact kept.ports c f _ next
  · exact kept.exec next hi
  · exact kept.illegalCommand next

/-- A property of the word registers, the channel set and the lifecycle that a fault does not break
survives every step when INIT, ENABLE and DISABLE keep it: nothing else writes what it reads. -/
theorem KeptByMoves.of_words {P : State → Prop}
    (congr : ∀ s t : State, (∀ r, t.word r = s.word r) → t.chset = s.chset →
      (t.life = s.life ∨ t.life.isFaulted = true) → P s → P t)
    (init : ∀ p r s, s.life = .unconfigured → P s →
      P (handOver 0b1111#4 (initWrites 0b1111#4 p r s)))
    (enable : ∀ ch s, s.life = .running → P s → P (enableEffect ch s))
    (disable : ∀ ch s, s.life = .running → P s → P (disableEffect ch s)) : KeptByMoves P where
  taken s moves := congr _ _ (fun r => by cases r <;> rfl) rfl (.inl rfl)
  tick s := congr _ _ (tick_word s) (tick_chset s) (.inl (tick_life s))
  ports c f s := congr _ _ (drivePorts_word c f s) rfl (.inl rfl)
  respond st d s := congr _ _ (respond_word st d s) rfl (.inl rfl)
  fault e s := congr _ _ (raiseFault_word e s) rfl (.inr rfl)
  init := init
  enable ch s hl _ := enable ch s hl
  disable ch s hl _ := disable ch s hl
  setDuty ch v s _ _ := congr _ _ (fun r => by rw [setDutyEffect_eq]; cases r <;> rfl)
    (by rw [setDutyEffect_eq]) (.inl (setDutyEffect_life ch v s))

/-! ## The running invariant -/

/-- The running invariant reads neither the lifecycle nor what a channel command writes nor what
belongs to the host. -/
theorem runningInvariant_congr {s t : State} (inv : RunningInvariant s)
    (frame : t = { s with
      life := t.life, ccer := t.ccer, ccr := t.ccr, ccrSh := t.ccrSh, clkRate := t.clkRate
      targetFreq := t.targetFreq, response := t.response, schedule := t.schedule }) :
    RunningInvariant t := by
  obtain ⟨cen, arpe, pwm, ossr, moe, psc, arr, pscnt, cnt⟩ := inv
  rw [frame]
  exact ⟨cen, arpe, fun ch hb => by cases ch <;> exact pwm _ hb, ossr, moe, psc, arr, pscnt, cnt⟩

theorem goodWhileRunning_congr {s t : State} (good : GoodWhileRunning s)
    (running : t.life = .running → s.life = .running)
    (frame : t = { s with
      life := t.life, ccer := t.ccer, ccr := t.ccr, ccrSh := t.ccrSh, clkRate := t.clkRate
      targetFreq := t.targetFreq, response := t.response, schedule := t.schedule }) :
    GoodWhileRunning t :=
  fun hl => runningInvariant_congr (good (running hl)) frame

/-- The effect of a command for one channel keeps the running invariant (R191). -/
theorem goodWhileRunning_of_writesOnlyChannel {ch : Channel} {s t : State}
    (good : GoodWhileRunning s) (hl : s.life = .running) (h : WritesOnlyChannel ch s t) :
    GoodWhileRunning t :=
  goodWhileRunning_congr good (fun _ => hl) (by rw [h.frame])

theorem RunningInvariant.inPeriod {s : State} (inv : RunningInvariant s) : InPeriod s :=
  ⟨inv.cen, inv.pscnt, inv.cnt⟩

/-- The counter stays inside the period in use, and the update event loads the prescaler and the
period that are in use already (R230, R233). -/
theorem runningInvariant_tick {s : State} (inv : RunningInvariant s) :
    RunningInvariant (tick s) := by
  obtain ⟨-, pscnt, cnt⟩ := inPeriod_tick inv.inPeriod
  have same : (tick s).pscSh = s.pscSh ∧ (tick s).arrSh = s.arrSh := by
    rcases tick_of_inPeriod inv.inPeriod with ⟨-, -, -, ht⟩ | ⟨-, ht⟩ <;> rw [ht]
    · exact ⟨rfl, rfl⟩
    · exact ⟨inv.psc.symm, inv.arr.symm⟩
  refine ⟨(field_tick s _).trans inv.cen, (field_tick s _).trans inv.arpe, fun ch hb => ?_,
    (field_tick s _).trans inv.ossr, (field_tick s _).trans inv.moe,
    same.1.trans (inv.psc.trans (tick_psc s).symm), same.2.trans (inv.arr.trans (tick_arr s).symm),
    pscnt, cnt⟩
  rw [field_tick, field_tick]
  exact inv.pwm ch (by rwa [State.bound, tick_chset] at hb)

/-- INIT leaves every channel with preload (R165). -/
theorem ocpe_handOver_initWrites (p r : Half) (s : State) (ch : Channel) :
    (handOver 0b1111#4 (initWrites 0b1111#4 p r s)).field (.ocpe ch) = 1 := by
  rw [field_of_word (handOver_initWrites_word p r s _)]
  cases ch <;> decide

/-- INIT leaves the invariant, whatever was before it (R55, R163 to R171). -/
theorem runningInvariant_handOver_initWrites (p r : Half) (s : State) :
    RunningInvariant (handOver 0b1111#4 (initWrites 0b1111#4 p r s)) := by
  have word := handOver_initWrites_word p r s
  have frame := handOver_initWrites p r s
  exact {
    cen := (field_of_word (word .cr1)).trans (by decide)
    arpe := (field_of_word (word .cr1)).trans (by decide)
    pwm := fun ch _ => ⟨ocm_handOver_initWrites p r s ch, ocpe_handOver_initWrites p r s ch⟩
    ossr := (field_of_word (word .bdtr)).trans (by decide)
    moe := (field_of_word (word .bdtr)).trans (by decide)
    psc := by rw [frame]
    arr := by rw [frame]
    pscnt := by rw [frame]; exact zero_le_half p
    cnt := by rw [frame]; exact zero_le_half r }

theorem goodWhileRunning_keptByMoves : KeptByMoves GoodWhileRunning where
  taken s moves good := goodWhileRunning_congr good id rfl
  tick s good hl := runningInvariant_tick (good ((tick_life s).symm.trans hl))
  ports c f s good := goodWhileRunning_congr good id rfl
  respond st d s good := goodWhileRunning_congr good id rfl
  fault e s good hl := by cases hl
  init p r s _ _ _ := runningInvariant_handOver_initWrites p r s
  enable ch s hl _ good :=
    goodWhileRunning_of_writesOnlyChannel good hl (writesOnlyChannel_enableEffect ch s)
  disable ch s hl _ good :=
    goodWhileRunning_of_writesOnlyChannel good hl (writesOnlyChannel_disableEffect ch s)
  setDuty ch v s hl _ good :=
    goodWhileRunning_of_writesOnlyChannel good hl (writesOnlyChannel_setDutyEffect ch v s)

/-- Settles O52: TICK keeps the counter inside the period, INIT establishes the invariant, and no
other move writes what it reads. -/
theorem runningStatesStayGood : Obligations.RunningStatesStayGood :=
  goodWhileRunning_keptByMoves.step

/-! ## Unnamed bits -/

/-- A channel's enable bits lie inside the named bits (R41, R48). -/
theorem unnamed_enableEffect (ch : Channel) (s : State) (r : WordReg) :
    (enableEffect ch s).word r &&& ~~~ namedBits r = s.word r &&& ~~~ namedBits r := by
  have cce : fieldMask (BitField.cce ch).lo (BitField.cce ch).len &&&
      ~~~ namedBits (BitField.cce ch).reg = 0 := by cases ch <;> decide
  have ccne : ∀ f, BitField.ccne ch = some f →
      fieldMask f.lo f.len &&& ~~~ namedBits f.reg = 0 := by
    intro f hf
    cases ch <;> cases hf <;> decide
  rw [enableEffect, respond_word, clearCcne]
  split
  next f hf => exact (unnamed_setFieldTo _ f _ r (ccne f hf)).trans (unnamed_setFieldTo s _ _ r cce)
  next => exact unnamed_setFieldTo s _ _ r cce

theorem unnamed_disableEffect (ch : Channel) (s : State) (r : WordReg) :
    (disableEffect ch s).word r &&& ~~~ namedBits r = s.word r &&& ~~~ namedBits r := by
  rw [disableEffect, respond_word]
  exact unnamed_setFieldTo s _ _ r (by cases ch <;> decide)

theorem unnamedBitsAtReset_handOver_initWrites (p r : Half) (s : State) :
    UnnamedBitsAtReset (handOver 0b1111#4 (initWrites 0b1111#4 p r s)) := by
  intro reg
  rw [handOver_initWrites_word]
  cases reg <;> decide

theorem unnamedBitsAtReset_keptByMoves : KeptByMoves UnnamedBitsAtReset :=
  .of_words (fun s t words _ _ unnamed r => by rw [words]; exact unnamed r)
    (fun p r s _ _ => unnamedBitsAtReset_handOver_initWrites p r s)
    (fun ch s _ unnamed r => (unnamed_enableEffect ch s r).trans (unnamed r))
    (fun ch s _ unnamed r => (unnamed_disableEffect ch s r).trans (unnamed r))

/-- Settles O53: every write of a register is a write of a named field, but for the timer's reset,
which gives the unnamed bits their reset values too. -/
theorem unnamedBitsKeepTheirResetValues : Obligations.UnnamedBitsKeepTheirResetValues :=
  unnamedBitsAtReset_keptByMoves.step

/-! ## Complementary outputs -/

theorem complementaryOff_handOver_initWrites (p r : Half) (s : State) :
    ComplementaryOff (handOver 0b1111#4 (initWrites 0b1111#4 p r s)) := by
  intro ch f hf
  rw [field_of_word (handOver_initWrites_word p r s _)]
  cases ch <;> cases hf <;> decide

theorem complementaryOff_enableEffect {s : State} (off : ComplementaryOff s) (ch : Channel) :
    ComplementaryOff (enableEffect ch s) := by
  intro ch' f hf
  rw [ccne_enableEffect ch ch' s f hf, off ch' f hf, ite_self]

theorem complementaryOff_keptByMoves : KeptByMoves ComplementaryOff :=
  .of_words (fun _ _ words _ _ off ch f hf => (field_eq_of_word (words _)).trans (off ch f hf))
    (fun p r s _ _ => complementaryOff_handOver_initWrites p r s)
    (fun ch _ _ off => complementaryOff_enableEffect off ch)
    (fun ch s _ off ch' f hf => (ccne_disableEffect ch ch' s f hf).trans (off ch' f hf))

/-- Settles O54: INIT clears every complementary bit, ENABLE its own channel's, and nothing sets
one. -/
theorem complementaryBitsStayClear : Obligations.ComplementaryBitsStayClear :=
  complementaryOff_keptByMoves.step

/-- Settles O55: ENABLE of a bound channel finds it in PWM mode 1, and INIT puts every channel in
it. -/
theorem enabledChannelsStayInPwmMode : Obligations.EnabledChannelsStayInPwmMode :=
  fun _ _ => enabledOnlyInPwmMode_step

/-! ## The lifecycle's own conditions -/

theorem runningSetSupported_keptByMoves : KeptByMoves RunningSetSupported :=
  .of_words
    (fun s t _ chset life supported hl => by
      rw [chset]
      rcases life with same | faulted
      · exact supported (same.symm.trans hl)
      · rw [hl] at faulted
        cases faulted)
    (fun p r s _ _ _ => mem_supportedSets_iff.2 rfl)
    (fun ch s hl supported _ => by rw [enableEffect_frame]; exact supported hl)
    (fun ch s hl supported _ => by rw [disableEffect_frame]; exact supported hl)

/-- Settles O56: INIT alone starts the block and writes the channel set, with a supported one. -/
theorem runningSetStaysSupported : Obligations.RunningSetStaysSupported :=
  runningSetSupported_keptByMoves.step

theorem stoppedWhenUnconfigured_keptByMoves : KeptByMoves StoppedWhenUnconfigured :=
  .of_words
    (fun s t words _ life stopped hl => by
      rw [field_eq_of_word (words _)]
      rcases life with same | faulted
      · exact stopped (same.symm.trans hl)
      · rw [hl] at faulted
        cases faulted)
    (fun p r s _ _ hl => by cases hl)
    (fun ch s running _ hl => by rw [enableEffect_life, running] at hl; cases hl)
    (fun ch s running _ hl => by rw [disableEffect_life, running] at hl; cases hl)

/-- Settles O57: the commands that write a register run in, or lead to, another lifecycle. -/
theorem unconfiguredStatesStayStopped : Obligations.UnconfiguredStatesStayStopped :=
  stoppedWhenUnconfigured_keptByMoves.step

/-! ## Power-on reset -/

theorem complementaryOff_atReset (moves : List Move) : ComplementaryOff (atReset moves) := by
  intro ch f hf
  rw [field_of_word (word_atReset moves _)]
  cases ch <;> cases hf <;> decide

/-- Settles O58: at reset the block does not run, and every word register is at its reset value. -/
theorem invariantsHoldAtReset : Obligations.InvariantsHoldAtReset := by
  refine fun moves => ⟨fun hl => ?_, fun r => by rw [word_atReset], complementaryOff_atReset moves,
    enabledOnlyInPwmMode_atReset moves, fun hl => ?_,
    fun _ => field_of_word (word_atReset moves _)⟩ <;>
  cases hl

end Sys2Proof
end

section
/-! What a successful `resolve` gives: its pair in terms of the ticks, and the bounds that follow
(R133 to R137). -/

namespace Sys2Proof.Machine

/-- What `OK(p, r)` says of the ticks (R133, R134, R135). -/
theorem ticks_of_resolve_ok {c f : Nat} {p r : Half} (h : resolve c f = .ok p r) :
    1 ≤ c / f / (p.toNat + 1) ∧ c / f / (p.toNat + 1) ≤ 65535 ∧
      r.toNat + 1 = c / f / (p.toNat + 1) := by
  rcases resolve_cases c f with ⟨_, hr⟩ | ⟨_, _, _, hr⟩ | ⟨_, _, one, fit, hr⟩
  · cases h.symm.trans hr
  · cases h.symm.trans hr
  · obtain ⟨rfl, rfl⟩ := Resolution.ok.inj (h.symm.trans hr)
    obtain ⟨lower, upper⟩ := ticks_div_bounds one fit
    rw [toNat_prescaler fit, BitVec.toNat_ofNat, Nat.mod_eq_of_lt (by omega)]
    exact ⟨lower, upper, by omega⟩

/-- Settles O18: the quotient lies in 1..65535, and the reload is one less. -/
theorem reloadIsExactAndNeverFull : Obligations.ReloadIsExactAndNeverFull := by
  intro c f p r h
  obtain ⟨lower, upper, reload⟩ := ticks_of_resolve_ok h
  exact ⟨lower, upper, reload, by omega⟩

/-- Settles O19: 32-bit operands give fewer than `2^32` ticks. -/
theorem impossibleNeedsWiderPorts : Obligations.ImpossibleNeedsWiderPorts := by
  refine ⟨fun s impossible => ?_, resolve_of_ticks_not_fit (by decide)⟩
  have port : s.clkRate.toNat / s.targetFreq.toNat < 2 ^ 32 :=
    (Nat.div_le_self _ _).trans_lt s.clkRate.isLt
  rcases resolve_cases s.clkRate.toNat s.targetFreq.toNat with
    ⟨_, hr⟩ | ⟨_, _, not_fit, _⟩ | ⟨_, _, _, _, hr⟩
  · cases impossible.symm.trans hr
  · omega
  · cases impossible.symm.trans hr

/-- Settles O20: the product is `(p + 1) * (ticks / (p + 1))`, which is short of the ticks by the
remainder. -/
theorem resolveLosesAtMostThePrescaler : Obligations.ResolveLosesAtMostThePrescaler := by
  intro c f p r h
  obtain ⟨-, -, reload⟩ := ticks_of_resolve_ok h
  have product := Nat.div_add_mod (c / f) (p.toNat + 1)
  have rest : c / f % (p.toNat + 1) < p.toNat + 1 := Nat.mod_lt _ (Nat.succ_pos _)
  rw [reload]
  refine ⟨Nat.mul_div_le _ _, by omega, ?_⟩
  calc f * ((p.toNat + 1) * (c / f / (p.toNat + 1)))
      ≤ f * (c / f) := Nat.mul_le_mul_left f (Nat.mul_div_le _ _)
    _ ≤ c := Nat.mul_div_le c f

end Sys2Proof.Machine
end

section
/-! RESOLVE, INIT and the timer's reset as whole states (R140, R163 to R173). -/

namespace Sys2Proof

open Sys2Proof.Machine

theorem resolveResponse_of_ok {c f : Nat} {p r : Half} (h : resolve c f = .ok p r) (s : State) :
    resolveResponse c f s = respond .ok (p ++ r) s := by
  rw [resolveResponse, h]

theorem resolveResponse_of_err {c f : Nat} {e : ErrorCode} (h : resolve c f = .err e)
    (s : State) : resolveResponse c f s = respond (.error e) 0#32 s := by
  rw [resolveResponse, h]

/-- Settles O22: RESOLVE is one response, the pair or the error. -/
theorem resolveCommandOnlyAnswers : Obligations.ResolveCommandOnlyAnswers := by
  refine fun s before => ⟨fun p r h => ?_, fun e h => ?_⟩ <;>
    rw [exec_resolve_of_not_faulted before]
  · rw [resolveResponse_of_ok h, respond]
  · rw [resolveResponse_of_err h, respond]

theorem initWith_of_resolve_ok {c f : Nat} {p r : Half} {s : State} (hl : s.life = .unconfigured)
    (h : resolve c f = .ok p r) :
    initWith c f 0b1111#4 s = handOver 0b1111#4 (initWrites 0b1111#4 p r s) := by
  rw [initWith, if_neg (by simp [hl]), if_pos (mem_supportedSets_iff.2 rfl), h]

theorem exec_init_of_resolve_ok {p r : Half} {s : State} (hl : s.life = .unconfigured)
    (h : resolve s.clkRate.toNat s.targetFreq.toNat = .ok p r) :
    exec (.init 0b1111#4) s = .next (handOver 0b1111#4 (initWrites 0b1111#4 p r s)) := by
  rw [exec_init_of_not_faulted (isFaulted_eq_false_iff.2 (.inl hl)), initWith_of_resolve_ok hl h]

/-- Settles O23: past its checks INIT is its nine steps, whose whole effect `handOver_initWrites`
gives. -/
theorem initConfiguresAndStarts : Obligations.InitConfiguresAndStarts := by
  intro s p r hl h
  rw [exec_init_of_resolve_ok hl h, handOver_initWrites]
  rfl

theorem cen_resetTimer (s : State) : (resetTimer s).field .cen = 0 :=
  (field_of_word (resetTimer_word s .cr1)).trans (by decide)

/-- Settles O26: the reset clears CEN, and a TICK without it changes nothing. -/
theorem timerResetStopsTheCounter : Obligations.TimerResetStopsTheCounter :=
  fun s => ⟨rfl, tick_of_stopped (cen_resetTimer s)⟩

end Sys2Proof
end

section
/-! One step, by the move it takes off the schedule (R91, R100, R104, R230). -/

namespace Sys2Proof

open Sys2Proof.Machine

theorem step_of_legal_command {s : State} {w : Word} {rest : List Move} {i : Instr}
    (hs : s.schedule = .command w :: rest) (hw : decode w = .command i) :
    step s = exec i { s with schedule := rest } :=
  (step_of_command hs).trans (presentWord_of_command hw _)

/-- Settles O7: the word is taken off the schedule and decoded. -/
theorem stepRunsTheDecodedCommand : Obligations.StepRunsTheDecodedCommand :=
  fun _ _ _ _ => step_of_legal_command

theorem step_of_ports {s : State} {c f : BitVec Config.operandWidth} {rest : List Move}
    (hs : s.schedule = .ports c f :: rest) :
    step s = .next (drivePorts c f { s with schedule := rest }) := by
  simp only [step, nextMove, hs, performMove]

theorem step_of_tick {s : State} {rest : List Move} (hs : s.schedule = .tick :: rest) :
    step s = .next (tick { s with schedule := rest }) := by
  simp only [step, nextMove, hs, performMove]

theorem step_of_nil {s : State} (hs : s.schedule = []) : step s = .next (tick s) := by
  simp only [step, nextMove, hs, performMove]

/-- Settles O8: one equation for each kind of move that is no command. -/
theorem stepMakesPortMovesAndTicks : Obligations.StepMakesPortMovesAndTicks :=
  ⟨fun _ _ _ _ => step_of_ports, fun _ _ => step_of_tick, fun _ => step_of_nil⟩

/-- Settles O9: every command and every other move has a next state. -/
theorem everyStepHasANextState : Obligations.EveryStepHasANextState :=
  step_next

end Sys2Proof
end

section
/-! The bus view of the register map (R84 to R86). -/

namespace Sys2Proof.Machine

theorem busReadAt_of_held {o : Nat} {r : Reg} (h : o % 4 = 0) (slot : slotAt o = some (.held r))
    (s : State) : busReadAt o 4 s = .next (regRead r s) := by
  rw [busReadAt, if_pos ⟨rfl, h⟩, slot]

theorem busReadAt_of_outOfScope {o : Nat} (h : o % 4 = 0) (slot : slotAt o = some .outOfScope)
    (s : State) : busReadAt o 4 s = .refused .registerOutOfScope := by
  rw [busReadAt, if_pos ⟨rfl, h⟩, slot]

theorem busReadAt_of_no_slot {o : Nat} (h : o % 4 = 0) (slot : slotAt o = none) (s : State) :
    busReadAt o 4 s = .fault .noRegister := by
  rw [busReadAt, if_pos ⟨rfl, h⟩, slot]

theorem busReadAt_of_not_aligned {o bytes : Nat} (h : bytes ≠ 4 ∨ o % 4 ≠ 0) (s : State) :
    busReadAt o bytes s = .refused .notAnAlignedWord :=
  if_neg (by omega)

/-- The map has every register at its offset (R86). -/
theorem slotAt_regOffset (r : Reg) : slotAt (regOffset r) = some (.held r) := by
  cases r with
  | word r => cases r <;> rfl
  | ccr ch => cases ch <;> rfl
  | _ => rfl

theorem regOffset_aligned (r : Reg) : regOffset r % 4 = 0 := by
  cases r with
  | word r => cases r <;> rfl
  | ccr ch => cases ch <;> rfl
  | _ => rfl

/-- The map ends below 0x50 (R86). -/
theorem slotAt_of_past_map {o : Nat} (h : 0x50 ≤ o) : slotAt o = none := by
  unfold slotAt
  split <;> simp at h ⊢

/-- A 16-bit register reads 0 in bits 31:16 (R85). -/
theorem getLsbD_setWidth_half (x : Half) {k : Nat} (h : 16 ≤ k) :
    (x.setWidth 32).getLsbD k = false := by
  rw [BitVec.getLsbD_setWidth, BitVec.getLsbD_of_ge x k h, Bool.and_false]

/-- Settles O60: reads by the slot the map gives for the offset; 16-bit registers are widened with
zeros. -/
theorem registerBlockMap : Obligations.RegisterBlockMap := by
  refine ⟨fun r s => busReadAt_of_held (regOffset_aligned r) (slotAt_regOffset r) s,
    fun s o ho => ?_, fun s => rfl,
    fun s o past aligned => busReadAt_of_no_slot aligned (slotAt_of_past_map past) s,
    fun s o bytes h => busReadAt_of_not_aligned h s, fun s ch k hk =>
      ⟨getLsbD_setWidth_half _ hk, getLsbD_setWidth_half _ hk, getLsbD_setWidth_half _ hk⟩⟩
  have mapped : ∀ o ∈ [0x04, 0x08, 0x0C, 0x10, 0x30, 0x48, 0x4C],
      o % 4 = 0 ∧ slotAt o = some .outOfScope := by decide
  obtain ⟨aligned, slot⟩ := mapped o ho
  exact busReadAt_of_outOfScope aligned slot s

end Sys2Proof.Machine
end

section
/-! Register writes: fields, and the 16-bit registers with their shadow copies (R45, R83, R85, R87).
-/

namespace Sys2Proof.Machine

/-! ## Fields -/

/-- A field write touches its own register alone. -/
theorem setWord_frame (s : State) (r : WordReg) (w : Word) :
    s.setWord r w = { s with
      cr1 := (s.setWord r w).cr1, ccmr1 := (s.setWord r w).ccmr1
      ccmr2 := (s.setWord r w).ccmr2, ccer := (s.setWord r w).ccer
      bdtr := (s.setWord r w).bdtr } := by
  cases r <;> rfl

/-- Settles O30: the field reads as what was written under its mask, and `setField` says which bits
of the word that leaves alone. -/
theorem fieldWriteKeepsTheOtherBits : Obligations.FieldWriteKeepsTheOtherBits := by
  intro s f v fits
  have field (k : Nat) : ((regWrite (.bits f) v s).field f).getLsbD k =
      (v.getLsbD k && decide (k < f.len ∧ k < 32)) := by
    rw [regWrite, field_setFieldTo_same s f v fits, BitVec.getLsbD_and, getLsbD_fieldMask]
    simp
  refine ⟨fun k hk => ?_, fun k hk => ?_, fun k outside => ?_, fun r other => ?_,
    setWord_frame s f.reg _⟩
  · rw [field, decide_eq_true ⟨hk, by omega⟩, Bool.and_true]
  · rw [field, decide_eq_false (by omega), Bool.and_false]
  · rw [regWrite, State.setFieldTo, setWord_word, if_pos rfl, getLsbD_setField, if_neg (by omega)]
  · rw [regWrite, State.setFieldTo, setWord_word, if_neg other]

/-! ## The 16-bit registers -/

/-- The low half of a widened value is the value (R85). -/
theorem setWidth_setWidth_half (v : Half) : (v.setWidth 32).setWidth 16 = v := by simp

theorem regWrite_psc (s : State) (v : Half) :
    regWrite .psc (v.setWidth 32) s = { s with psc := v } := by
  rw [regWrite, setWidth_setWidth_half]

theorem regWrite_arr_of_preload {s : State} (h : s.field .arpe = 1) (v : Half) :
    regWrite .arr (v.setWidth 32) s = { s with arr := v } := by
  rw [regWrite, if_neg (by rw [h]; decide), setWidth_setWidth_half]

theorem regWrite_arr_of_no_preload {s : State} (h : s.field .arpe = 0) (v : Half) :
    regWrite .arr (v.setWidth 32) s = { s with arr := v, arrSh := v } := by
  rw [regWrite, if_pos h, setWidth_setWidth_half]

theorem regWrite_ccr_of_preload {s : State} {ch : Channel} (h : s.field (.ocpe ch) = 1) (v : Half) :
    regWrite (.ccr ch) (v.setWidth 32) s = { s with ccr := s.ccr.set ch v } := by
  rw [regWrite, if_neg (by rw [h]; decide), setWidth_setWidth_half]

theorem regWrite_ccr_of_no_preload {s : State} {ch : Channel} (h : s.field (.ocpe ch) = 0)
    (v : Half) :
    regWrite (.ccr ch) (v.setWidth 32) s =
      { s with ccr := s.ccr.set ch v, ccrSh := s.ccrSh.set ch v } := by
  rw [regWrite, if_pos h, setWidth_setWidth_half]

/-- A write of ARR reaches the register, with preload or without. -/
@[simp] theorem regWrite_arr_arr (s : State) (v : Half) :
    (regWrite .arr (v.setWidth 32) s).arr = v := by
  rw [regWrite]
  split <;> exact setWidth_setWidth_half v

/-- A write of a compare register reaches the register, with preload or without. -/
@[simp] theorem regWrite_ccr_ccr (s : State) (ch : Channel) (v : Half) :
    (regWrite (.ccr ch) (v.setWidth 32) s).ccr = s.ccr.set ch v := by
  rw [regWrite]
  split <;> rw [setWidth_setWidth_half]

/-- Settles O29: the whole next states by the preload bit, and reads of the register just written.
-/
theorem writesReachTheShadowWithoutPreload : Obligations.WritesReachTheShadowWithoutPreload := by
  intro s v ch
  refine ⟨regWrite_psc s v, ?_, fun h => regWrite_arr_of_preload h v,
    fun h => regWrite_arr_of_no_preload h v, ?_, fun h => regWrite_ccr_of_preload h v,
    fun h => ⟨regWrite_ccr_of_no_preload h v, ?_, fun ch' other => ?_⟩, ?_, fun ch' other => ?_⟩
  · rw [regWrite_psc, regRead]
  · rw [regRead, regWrite_arr_arr]
  · rw [regWrite_ccr_of_no_preload h]
    exact CompareFile.get_set_same _ _ _
  · rw [regWrite_ccr_of_no_preload h]
    exact CompareFile.get_set_apart _ _ _ _ other
  · rw [regRead, regWrite_ccr_ccr, CompareFile.get_set_same]
  · rw [regRead, regRead, regWrite_ccr_ccr, CompareFile.get_set_apart _ _ _ _ other]

end Sys2Proof.Machine
end

section
/-! The channel commands of a running block on a bound channel: each is its effect (R195 to R210).
-/

namespace Sys2Proof

open Sys2Proof.Machine

section OnBoundChannel

variable {ch : Channel} {s : State} (hl : s.life = .running) (hb : s.bound ch = true)
include hl hb

theorem exec_enable_of_running : exec (.enable ch) s = .next (enableEffect ch s) :=
  congrArg Host.Outcome.next (channelCommand_of_running hl hb)

theorem exec_disable_of_running : exec (.disable ch) s = .next (disableEffect ch s) :=
  congrArg Host.Outcome.next (channelCommand_of_running hl hb)

theorem exec_getDuty_of_running : exec (.getDuty ch) s = .next (getDutyEffect ch s) :=
  congrArg Host.Outcome.next (channelCommand_of_running hl hb)

theorem exec_setDuty_of_running (v : Half) :
    exec (.setDuty ch v) s = .next (setDutyEffect ch v s) :=
  congrArg Host.Outcome.next (channelCommand_of_running hl hb)

theorem exec_getMaxDuty_of_running : exec (.getMaxDuty ch) s = .next (getMaxDutyEffect s) :=
  congrArg Host.Outcome.next (channelCommand_of_running hl hb)

end OnBoundChannel

/-- Settles O32: ENABLE's effect is its frame, with the bits of CCER known one by one. -/
theorem enableSetsItsOwnBit : Obligations.EnableSetsItsOwnBit :=
  fun ch s hl hb => ⟨(enableEffect ch s).ccer,
    (exec_enable_of_running hl hb).trans (congrArg _ (enableEffect_frame ch s)),
    enableEffect_ccer_bit ch s⟩

/-- Settles O33: DISABLE's effect is its frame, with the bits of CCER known one by one. -/
theorem disableClearsItsOwnBit : Obligations.DisableClearsItsOwnBit :=
  fun ch s hl hb => ⟨(disableEffect ch s).ccer,
    (exec_disable_of_running hl hb).trans (congrArg _ (disableEffect_frame ch s)),
    disableEffect_ccer_bit ch s⟩

/-- Settles O34: the answer is a read of the compare register. -/
theorem getDutyAnswersTheRegister : Obligations.GetDutyAnswersTheRegister :=
  fun _ _ hl hb => exec_getDuty_of_running hl hb

/-- Settles O37: the answer is a read of ARR. -/
theorem getMaxDutyAnswersTheReload : Obligations.GetMaxDutyAnswersTheReload :=
  fun _ _ hl hb => exec_getMaxDuty_of_running hl hb

/-- Settles O35: SET_DUTY writes one value of the compare file, and of the shadow file when there is
no preload. -/
theorem setDutyWritesItsOwnRegister : Obligations.SetDutyWritesItsOwnRegister := by
  intro ch v s hl hb
  refine ⟨s.ccr.set ch v, if s.field (.ocpe ch) = 0 then s.ccrSh.set ch v else s.ccrSh,
    (exec_setDuty_of_running hl hb v).trans (congrArg _ (setDutyEffect_eq ch v s)),
    CompareFile.get_set_same _ _ _, fun ch' other => CompareFile.get_set_apart _ _ _ _ other,
    ?_, fun ch' other => ?_⟩
  · rw [apply_ite (CompareFile.get · ch), CompareFile.get_set_same]
  · rw [apply_ite (CompareFile.get · ch'), CompareFile.get_set_apart _ _ _ _ other, ite_self]

/-- ENABLE's effect leaves nothing for a second one to do (R196). -/
theorem enableEffect_enableEffect (ch : Channel) (s : State) :
    enableEffect ch (enableEffect ch s) = enableEffect ch s := by
  have ccer : (enableEffect ch (enableEffect ch s)).ccer = (enableEffect ch s).ccer := by
    apply BitVec.eq_of_getLsbD_eq
    intro k hk
    rw [enableEffect_ccer_bit ch (enableEffect ch s) k hk, enableEffect_ccer_bit ch s k hk]
    split_ifs <;> rfl
  rw [enableEffect_frame ch (enableEffect ch s), ccer]
  rfl

/-- Settles O39: the state after ENABLE is again a running one with the channel bound. -/
theorem enableIsIdempotent : Obligations.EnableIsIdempotent := by
  intro ch s t hl hb h
  obtain rfl := Host.Outcome.next.inj ((exec_enable_of_running hl hb).symm.trans h)
  have hb' : (enableEffect ch s).bound ch = true := by rwa [enableEffect_frame]
  rw [exec_enable_of_running ((enableEffect_life ch s).trans hl) hb', enableEffect_enableEffect]

/-! ## Sequences of ENABLE and DISABLE -/

/-- An enable bit after a sequence whose last toggle of the channel is given (R199). -/
def toggledBit (last : Option Bool) (old : Word) : Word :=
  match last with
  | some true => 1#32
  | some false => 0#32
  | none => old

/-- The first command decides where the rest names the channel no more. -/
theorem toggledBit_lastToggle_cons (ch : Channel) (i : Instr) (rest : List Instr) (old : Word) :
    toggledBit (lastToggle ch (i :: rest)) old = toggledBit (lastToggle ch rest)
      (if i = .enable ch then 1 else if i = .disable ch then 0 else old) := by
  rw [lastToggle]
  cases lastToggle ch rest with
  | some b => cases b <;> rfl
  | none =>
    dsimp only
    split_ifs <;> rfl

/-- One toggle of a running block with every channel bound. -/
theorem exec_toggle {s : State} {i : Instr} (hl : s.life = .running)
    (bound : ∀ ch, s.bound ch = true) (hi : ∃ ch, i = .enable ch ∨ i = .disable ch) :
    ∃ t, exec i s = .next t ∧ t.life = s.life ∧ t.chset = s.chset ∧ t.schedule = s.schedule ∧
      ∀ ch, t.field (.cce ch) =
        if i = .enable ch then 1 else if i = .disable ch then 0 else s.field (.cce ch) := by
  obtain ⟨ch, rfl | rfl⟩ := hi
  · refine ⟨_, exec_enable_of_running hl (bound ch), enableEffect_life ch s, ?_, ?_, fun ch' => ?_⟩
    · rw [enableEffect_frame]
    · rw [enableEffect_frame]
    · simp [cce_enableEffect, eq_comm]
  · refine ⟨_, exec_disable_of_running hl (bound ch), disableEffect_life ch s, ?_, ?_,
      fun ch' => ?_⟩
    · rw [disableEffect_frame]
    · rw [disableEffect_frame]
    · simp [cce_disableEffect, eq_comm]

theorem core_run_succ {s t : State} (h : step s = .next t) (n : Nat) :
    core.run (n + 1) s = core.run n t := by
  have first : core.step s = .next t := h
  simp only [Host.Core.run, first]

theorem run_of_toggles (cmds : List Instr) (s : State) (hl : s.life = .running)
    (supported : s.chset ∈ Config.supportedSets)
    (toggles : ∀ i ∈ cmds, ∃ ch, i = .enable ch ∨ i = .disable ch)
    (hs : s.schedule = cmds.map (fun i => .command (encode i))) :
    ∃ t, core.run cmds.length s = .next t ∧
      ∀ ch, t.field (.cce ch) = toggledBit (lastToggle ch cmds) (s.field (.cce ch)) := by
  induction cmds generalizing s with
  | nil => exact ⟨s, rfl, fun ch => rfl⟩
  | cons i rest ih =>
    rw [List.map_cons] at hs
    have first := step_of_legal_command hs (decodeOfEncodeIsTheCommand i)
    obtain ⟨t, ht, life, chset, schedule, bits⟩ := exec_toggle
      (s := { s with schedule := rest.map (fun i => .command (encode i)) }) hl
      (bound_of_mem_supportedSets supported) (toggles i List.mem_cons_self)
    obtain ⟨u, hu, last⟩ := ih t (life.trans hl) (by rw [chset]; exact supported)
      (fun j hj => toggles j (List.mem_cons_of_mem i hj)) schedule
    refine ⟨u, (core_run_succ (first.trans ht) rest.length).trans hu, fun ch => ?_⟩
    rw [last, bits, toggledBit_lastToggle_cons]
    rfl

/-- Settles O40: by induction on the commands, each of which is one step. -/
theorem lastToggleWins : Obligations.LastToggleWins :=
  fun cmds s hl chset toggles hs =>
    run_of_toggles cmds s hl (mem_supportedSets_iff.2 chset) toggles hs

end Sys2Proof
end

section
/-! What one command does, by the command: a bare answer, a fault, or the effect the command names
(R105, R260 to R265). -/

namespace Sys2Proof

open Sys2Proof.Machine

/-- The ways the command `i` leads from `s` to `t`. A bare answer that is no OK carries no result
(R105); only INIT, ENABLE, DISABLE and SET_DUTY write anything of the timer. -/
inductive CommandOutcome (i : Instr) (s t : State) : Prop where
  | answer (st : Status) (d : Word) (result : st ≠ .ok → d = 0#32) (after : t = respond st d s)
  | fault (e : ErrorCode) (after : t = raiseFault e s)
  | init (mask : BitVec 4) (p r : Half) (word : i = .init mask) (before : s.life = .unconfigured)
      (after : t = handOver 0b1111#4 (initWrites 0b1111#4 p r s))
  | enable (ch : Channel) (word : i = .enable ch) (before : s.life = .running)
      (bound : s.bound ch = true) (after : t = enableEffect ch s)
  | disable (ch : Channel) (word : i = .disable ch) (before : s.life = .running)
      (bound : s.bound ch = true) (after : t = disableEffect ch s)
  | setDuty (ch : Channel) (v : Half) (word : i = .setDuty ch v) (before : s.life = .running)
      (bound : s.bound ch = true) (after : t = setDutyEffect ch v s)

theorem commandOutcome_unlessFaulted {i : Instr} {s : State} {body : State → State}
    (h : s.life.isFaulted = false → CommandOutcome i s (body s)) :
    CommandOutcome i s (unlessFaulted body s) := by
  cases hf : s.life.isFaulted with
  | true =>
    obtain ⟨e, hl⟩ := isFaulted_iff.1 hf
    exact .answer _ _ (fun _ => rfl) (unlessFaulted_of_faulted hl)
  | false =>
    rw [unlessFaulted_of_not_faulted hf]
    exact h hf

theorem commandOutcome_channelCommand {i : Instr} {ch : Channel} {s : State}
    {body : State → State}
    (h : s.life = .running → s.bound ch = true → CommandOutcome i s (body s)) :
    CommandOutcome i s (channelCommand ch body s) := by
  rcases channelCommand_cases ch body s with
    ⟨_, hx⟩ | ⟨_, hx⟩ | ⟨_, _, hx⟩ | ⟨hl, hb, hx⟩ <;> rw [hx]
  · exact .answer _ _ (fun _ => rfl) rfl
  · exact .fault _ rfl
  · exact .fault _ rfl
  · exact h hl hb

theorem commandOutcome_resolveResponse (c f : Nat) (s : State) :
    CommandOutcome .resolve s (resolveResponse c f s) := by
  cases hr : resolve c f with
  | ok p r => exact .answer .ok (p ++ r) (absurd rfl) (resolveResponse_of_ok hr s)
  | err e => exact .answer _ _ (fun _ => rfl) (resolveResponse_of_err hr s)

theorem commandOutcome_initWith {s : State} (before : s.life.isFaulted = false) (c f : Nat)
    (mask : BitVec 4) : CommandOutcome (.init mask) s (initWith c f mask s) := by
  rcases initWith_cases c f mask s with ⟨_, h⟩ | ⟨_, _, e, _, h⟩ | ⟨idle, supported, p, r, _, h⟩
  · exact .fault _ h
  · exact .fault e h
  · obtain rfl := mem_supportedSets_iff.1 supported
    exact .init _ p r rfl ((isFaulted_eq_false_iff.1 before).resolve_right idle) h

theorem exec_outcome {i : Instr} {s t : State} (h : exec i s = .next t) :
    CommandOutcome i s t := by
  cases i with
  | resolve =>
    obtain rfl := Host.Outcome.next.inj h
    exact commandOutcome_unlessFaulted fun _ => commandOutcome_resolveResponse _ _ s
  | init mask =>
    obtain rfl := Host.Outcome.next.inj h
    exact commandOutcome_unlessFaulted fun before => commandOutcome_initWith before _ _ mask
  | enable ch =>
    obtain rfl := Host.Outcome.next.inj h
    exact commandOutcome_channelCommand fun hl hb => .enable ch rfl hl hb rfl
  | disable ch =>
    obtain rfl := Host.Outcome.next.inj h
    exact commandOutcome_channelCommand fun hl hb => .disable ch rfl hl hb rfl
  | getDuty ch =>
    obtain rfl := Host.Outcome.next.inj h
    exact commandOutcome_channelCommand fun _ _ => .answer .ok _ (absurd rfl) rfl
  | setDuty ch v =>
    obtain rfl := Host.Outcome.next.inj h
    exact commandOutcome_channelCommand fun hl hb => .setDuty ch v rfl hl hb rfl
  | getMaxDuty ch =>
    obtain rfl := Host.Outcome.next.inj h
    exact commandOutcome_channelCommand (body := getMaxDutyEffect) fun _ _ =>
      .answer .ok _ (absurd rfl) rfl

/-- An illegal word is answered FAULTED, or faults the block (R108, R264). -/
theorem illegalCommand_cases (s : State) :
    illegalCommand s = respond .faulted 0 s ∨ illegalCommand s = raiseFault .illegalCommand s := by
  cases hf : s.life.isFaulted with
  | true =>
    obtain ⟨e, hl⟩ := isFaulted_iff.1 hf
    exact .inl (unlessFaulted_of_faulted hl)
  | false => exact .inr (illegalCommand_of_not_faulted hf)

/-! ## Errors are precise -/

/-- From `s` to `t` a word was answered with the status `st`, no result, and at most a fault of that
status's code (R262, R263). -/
structure BareError (st : Status) (s t : State) : Prop where
  response : t.response = some ⟨st, 0#32⟩
  frame : t = { s with life := t.life, response := t.response }
  life : t.life = s.life ∨ ∃ e, st = .error e ∧ t.life = .faulted e

theorem bareError_respond (st : Status) (s : State) : BareError st s (respond st 0#32 s) :=
  ⟨rfl, rfl, .inl rfl⟩

theorem bareError_raiseFault (e : ErrorCode) (s : State) :
    BareError (.error e) s (raiseFault e s) :=
  ⟨rfl, rfl, .inr ⟨e, rfl, rfl⟩⟩

theorem CommandOutcome.bareError_or_ok {i : Instr} {s t : State} (h : CommandOutcome i s t) :
    (∃ d, t.response = some ⟨.ok, d⟩) ∨ ∃ st, st ≠ .ok ∧ BareError st s t := by
  cases h with
  | answer st d result after =>
    subst after
    by_cases ok : st = .ok
    · exact .inl ⟨d, by rw [ok, respond_response]⟩
    · exact .inr ⟨st, ok, result ok ▸ bareError_respond st s⟩
  | fault e after => exact .inr ⟨.error e, by simp, after ▸ bareError_raiseFault e s⟩
  | init mask p r word before after => exact .inl ⟨_, congrArg State.response after⟩
  | enable ch word before bound after => exact .inl ⟨_, congrArg State.response after⟩
  | disable ch word before bound after => exact .inl ⟨_, congrArg State.response after⟩
  | setDuty ch v word before bound after => exact .inl ⟨_, congrArg State.response after⟩

/-- Every word is answered, with OK or by a bare error (R105). -/
theorem presentWord_bareError_or_ok {w : Word} {s t : State} (h : presentWord w s = .next t) :
    (∃ d, t.response = some ⟨.ok, d⟩) ∨ ∃ st, st ≠ .ok ∧ BareError st s t := by
  cases hw : decode w with
  | command i =>
    exact (exec_outcome ((presentWord_of_command hw s).symm.trans h)).bareError_or_ok
  | illegal why =>
    obtain rfl := Host.Outcome.next.inj ((presentWord_of_illegal hw s).symm.trans h)
    rcases illegalCommand_cases s with hx | hx <;> rw [hx]
    · exact .inr ⟨_, by simp, bareError_respond _ s⟩
    · exact .inr ⟨_, by simp, bareError_raiseFault _ s⟩

theorem bareError_of_presentWord {w : Word} {s t : State} {st : Status} {d : Word}
    (h : presentWord w s = .next t) (answer : t.response = some ⟨st, d⟩) (error : st ≠ .ok) :
    d = 0#32 ∧ BareError st s t := by
  rcases presentWord_bareError_or_ok h with ⟨d', ok⟩ | ⟨st', _, bare⟩
  · cases answer.symm.trans ok
    exact absurd rfl error
  · cases answer.symm.trans bare.response
    exact ⟨rfl, bare⟩

/-- Settles O13: a word that is not answered OK is answered by a bare error. -/
theorem errorsChangeOnlyTheLifecycle : Obligations.ErrorsChangeOnlyTheLifecycle := by
  intro s t w st d h answer error
  obtain ⟨result, -, frame, life⟩ := bareError_of_presentWord h answer error
  exact ⟨result, frame, life⟩

end Sys2Proof
end

section
/-! What runs keep of the compare registers and of the period (R202, R208, R211). -/

namespace Sys2Proof

open Sys2Proof.Machine

/-- The kind of move a step makes, with the word where it is one. -/
theorem step_moves {s t : State} (h : step s = .next t) :
    ((nextMove s).1 = .tick ∧ t = tick (nextMove s).2) ∨
    (∃ c f, (nextMove s).1 = .ports c f ∧ t = drivePorts c f (nextMove s).2) ∨
    ∃ w, (nextMove s).1 = .command w ∧ presentWord w (nextMove s).2 = .next t := by
  rw [step] at h
  cases hm : (nextMove s).1 with
  | tick =>
    rw [hm] at h
    exact .inl ⟨rfl, (Host.Outcome.next.inj h).symm⟩
  | ports c f =>
    rw [hm] at h
    exact .inr (.inl ⟨c, f, rfl, (Host.Outcome.next.inj h).symm⟩)
  | command w =>
    rw [hm] at h
    exact .inr (.inr ⟨w, rfl, h⟩)

theorem mem_schedule_of_nextMove {s : State} {w : Word} (h : (nextMove s).1 = .command w) :
    Move.command w ∈ s.schedule := by
  cases hs : s.schedule with
  | nil =>
    simp only [nextMove, hs] at h
    cases h
  | cons m rest =>
    simp only [nextMove, hs] at h
    exact h ▸ List.mem_cons_self

/-- The channel is bound in a block that INIT has configured, its compare register holds the value,
and no `set_duty` for it is ahead. -/
structure DutyHeld (ch : Channel) (v : Half) (s : State) : Prop where
  bound : s.bound ch = true
  configured : s.life ≠ .unconfigured
  value : s.ccr.get ch = v
  ahead : ∀ w, Move.command w ∈ s.schedule → ∀ v', decode w ≠ .command (.setDuty ch v')

theorem dutyHeld_congr {ch : Channel} {v : Half} {s t : State} (held : DutyHeld ch v s)
    (chset : t.chset = s.chset) (life : t.life = s.life ∨ t.life.isFaulted = true)
    (value : t.ccr.get ch = s.ccr.get ch) (schedule : t.schedule ⊆ s.schedule) :
    DutyHeld ch v t where
  bound := by rw [State.bound, chset]; exact held.bound
  configured := by
    rcases life with same | faulted
    · rw [same]
      exact held.configured
    · rintro hl
      rw [hl] at faulted
      cases faulted
  value := value.trans held.value
  ahead := fun w hw => held.ahead w (schedule hw)

theorem dutyHeld_respond {ch : Channel} {v : Half} {s : State} (held : DutyHeld ch v s)
    (st : Status) (d : Word) : DutyHeld ch v (respond st d s) :=
  dutyHeld_congr held rfl (.inl rfl) rfl (List.Subset.refl _)

theorem dutyHeld_raiseFault {ch : Channel} {v : Half} {s : State} (held : DutyHeld ch v s)
    (e : ErrorCode) : DutyHeld ch v (raiseFault e s) :=
  dutyHeld_congr held rfl (.inr rfl) rfl (List.Subset.refl _)

/-- A command other than the channel's own SET_DUTY keeps what the channel holds (R191). -/
theorem dutyHeld_exec {ch : Channel} {v : Half} {i : Instr} {s t : State}
    (held : DutyHeld ch v s) (other : ∀ v', i ≠ .setDuty ch v') (h : exec i s = .next t) :
    DutyHeld ch v t := by
  cases exec_outcome h with
  | answer st d _ after => exact after ▸ dutyHeld_respond held st d
  | fault e after => exact after ▸ dutyHeld_raiseFault held e
  | init mask p r _ before _ => exact absurd before held.configured
  | enable ch' _ _ _ after =>
    rw [after, enableEffect_frame]
    exact dutyHeld_congr held rfl (.inl rfl) rfl (List.Subset.refl _)
  | disable ch' _ _ _ after =>
    rw [after, disableEffect_frame]
    exact dutyHeld_congr held rfl (.inl rfl) rfl (List.Subset.refl _)
  | setDuty ch' v' word _ _ after =>
    have apart : ch ≠ ch' := fun same => other v' (same ▸ word)
    rw [after, setDutyEffect_eq]
    exact dutyHeld_congr held rfl (.inl rfl) (CompareFile.get_set_apart _ _ _ _ apart)
      (List.Subset.refl _)

theorem dutyHeld_step {ch : Channel} {v : Half} (s t : State) (held : DutyHeld ch v s)
    (h : step s = .next t) : DutyHeld ch v t := by
  have next : DutyHeld ch v (nextMove s).2 := by
    rw [nextMove_frame]
    exact dutyHeld_congr held rfl (.inl rfl) rfl (List.tail_subset _)
  rcases step_moves h with ⟨_, rfl⟩ | ⟨c, f, _, rfl⟩ | ⟨w, hm, hw⟩
  · exact dutyHeld_congr next (tick_chset _) (.inl (tick_life _)) (by rw [tick_ccr])
      (by rw [tick_schedule]; exact List.Subset.refl _)
  · exact dutyHeld_congr next rfl (.inl rfl) rfl (List.Subset.refl _)
  · cases hd : decode w with
    | command i =>
      rw [presentWord_of_command hd] at hw
      refine dutyHeld_exec next (fun v' same => ?_) hw
      exact held.ahead w (mem_schedule_of_nextMove hm) v' (same ▸ hd)
    | illegal why =>
      obtain rfl := Host.Outcome.next.inj ((presentWord_of_illegal hd _).symm.trans hw)
      rcases illegalCommand_cases (nextMove s).2 with hx | hx <;> rw [hx]
      · exact dutyHeld_respond next _ _
      · exact dutyHeld_raiseFault next _

/-- Settles O41: what the channel holds after its SET_DUTY survives every step of the run, and a
good run ends in a block that still runs. -/
theorem setThenGetDutyRoundTrip : Obligations.SetThenGetDutyRoundTrip := by
  intro ch v s t u rs hl hb h ahead ⟨run, good⟩
  obtain rfl := Host.Outcome.next.inj ((exec_setDuty_of_running hl hb v).symm.trans h)
  have start : DutyHeld ch v (setDutyEffect ch v s) := by
    refine ⟨?_, ?_, ?_, ahead⟩ <;> rw [setDutyEffect_eq]
    · exact hb
    · simp [hl]
    · exact CompareFile.get_set_same _ _ _
  obtain ⟨bound, configured, value, -⟩ := run_keeps dutyHeld_step run start
  have running := (isFaulted_eq_false_iff.1 good).resolve_left configured
  rw [exec_getDuty_of_running running bound, getDutyEffect, regRead, value]
  rfl

/-! ## The period -/

/-- INIT has configured the block, and ARR and PSC hold these values. -/
structure PeriodHeld (a p : Half) (s : State) : Prop where
  configured : s.life ≠ .unconfigured
  arr : s.arr = a
  psc : s.psc = p

/-- ARR and PSC are written by INIT alone, and INIT only runs in an unconfigured block. -/
theorem periodHeld_keptByMoves (a p : Half) : KeptByMoves (PeriodHeld a p) where
  taken _ _ := fun ⟨configured, arr, psc⟩ => ⟨configured, arr, psc⟩
  tick s := fun ⟨configured, arr, psc⟩ =>
    ⟨(tick_life s).symm ▸ configured, (tick_arr s).trans arr, (tick_psc s).trans psc⟩
  ports _ _ _ := fun ⟨configured, arr, psc⟩ => ⟨configured, arr, psc⟩
  respond _ _ _ := fun ⟨configured, arr, psc⟩ => ⟨configured, arr, psc⟩
  fault _ _ := fun ⟨_, arr, psc⟩ => ⟨nofun, arr, psc⟩
  init _ _ _ unconfigured held := absurd unconfigured held.configured
  enable ch s _ _ := fun ⟨configured, arr, psc⟩ => by
    rw [enableEffect_frame]
    exact ⟨configured, arr, psc⟩
  disable ch s _ _ := fun ⟨configured, arr, psc⟩ => by
    rw [disableEffect_frame]
    exact ⟨configured, arr, psc⟩
  setDuty ch v s _ _ := fun ⟨configured, arr, psc⟩ => by
    rw [setDutyEffect_eq]
    exact ⟨configured, arr, psc⟩

/-- Settles O42: the run keeps the period, and GET_MAX_DUTY reads ARR. -/
theorem periodIsFixedAfterInit : Obligations.PeriodIsFixedAfterInit := by
  intro s u rs hl run
  obtain ⟨-, arr, psc⟩ := run_keeps (periodHeld_keptByMoves s.arr s.psc).step run
    ⟨by simp [hl], rfl, rfl⟩
  refine ⟨arr, psc, fun running ch bound => ?_⟩
  rw [← arr]
  exact exec_getMaxDuty_of_running running bound

end Sys2Proof
end

section
/-! The outputs: what drives them, and what changes them (R236 to R238). -/

namespace Sys2Proof

open Sys2Proof.Machine

/-! ## Complementary outputs -/

theorem outn_of_ccne {ch : Channel} {f : BitField} (hf : BitField.ccne ch = some f) (draw : Level)
    (s : State) :
    outn draw ch s =
      some (if s.field .moe = 1 ∧ s.field f = 1 then (ocref draw ch s).inverse.drive
        else .off) := by
  rw [outn, hf]

/-- With its complementary bit clear a channel's complementary output is OFF. -/
theorem outn_off_of_ccne_clear {ch : Channel} {s : State} {draw : Level} {d : Drive}
    (clear : ∀ f, BitField.ccne ch = some f → s.field f = 0) (h : outn draw ch s = some d) :
    d = .off := by
  cases hf : BitField.ccne ch with
  | none =>
    rw [outn, hf] at h
    cases h
  | some f =>
    have off : ¬ (s.field .moe = 1 ∧ s.field f = 1) := by
      rw [clear f hf]
      rintro ⟨-, h⟩
      exact absurd h (by decide)
    rw [outn_of_ccne hf, if_neg off] at h
    exact (Option.some.inj h).symm

theorem complementaryOff_of_reachable {t : State} (h : Reachable t) : ComplementaryOff t :=
  reachable_of_invariant complementaryOff_atReset complementaryOff_keptByMoves.step h

/-- Settles O48: the drive is the level shown, and a reachable state has every complementary bit
clear. -/
theorem outputDriveRule : Obligations.OutputDriveRule := by
  refine ⟨fun draw ch s => rfl, fun draw ch f s hf => ?_, fun t ch draw d reach h => ?_⟩
  · rw [outn_of_ccne hf]
    cases ocref draw ch s <;> rfl
  · exact outn_off_of_ccne_clear (complementaryOff_of_reachable reach ch) h

/-! ## What leaves every output -/

theorem sameOutputs_respond (st : Status) (d : Word) (s : State) :
    SameOutputs s (respond st d s) :=
  sameOutputs_of_fields (field_respond st d s) rfl rfl

theorem sameOutputs_raiseFault (e : ErrorCode) (s : State) : SameOutputs s (raiseFault e s) :=
  sameOutputs_of_fields (field_raiseFault e s) rfl rfl

theorem sameOutputs_drivePorts (c f : BitVec Config.operandWidth) (s : State) :
    SameOutputs s (drivePorts c f s) :=
  sameOutputs_of_fields (field_drivePorts c f s) rfl rfl

theorem sameOutputs_nextMove (s : State) : SameOutputs s (nextMove s).2 :=
  sameOutputs_of_fields (nextMove_field s) (by rw [nextMove_frame]) (by rw [nextMove_frame])

theorem sameOutputs_trans {s t u : State} (h : SameOutputs s t) (h' : SameOutputs t u) :
    SameOutputs s u := fun draw ch =>
  ⟨(h' draw ch).1.trans (h draw ch).1, (h' draw ch).2.trans (h draw ch).2⟩

theorem sameOutputs_of_bareError {st : Status} {s t : State} (h : BareError st s t) :
    SameOutputs s t := by
  rw [h.frame]
  exact sameOutputs_of_fields (fun f => field_eq_of_word (by cases f.reg <;> rfl)) rfl rfl

/-- With preload SET_DUTY leaves the values in use (R45, R205). -/
theorem setDutyEffect_of_preload {ch : Channel} {s : State} (h : s.field (.ocpe ch) = 1)
    (v : Half) :
    setDutyEffect ch v s =
      { s with ccr := s.ccr.set ch v, response := some ⟨.ok, 0⟩ } := by
  rw [setDutyEffect_eq, if_neg (by rw [h]; decide)]

theorem sameOutputs_setDutyEffect {ch : Channel} {s : State} (h : s.field (.ocpe ch) = 1)
    (v : Half) : SameOutputs s (setDutyEffect ch v s) :=
  sameOutputs_of_fields (field_setDutyEffect ch v s) (by rw [setDutyEffect_eq])
    (by rw [setDutyEffect_of_preload h])

/-! ## What changes an output -/

/-- A word changes an output when it is an `enable`, a `disable` or an INIT that answers OK, and
otherwise not, given preload on the bound channels of a running block (R238). -/
theorem sameOutputs_or_enable_disable_init {w : Word} {s t : State} (good : GoodWhileRunning s)
    (h : presentWord w s = .next t) :
    SameOutputs s t ∨ ∃ d, t.response = some ⟨.ok, d⟩ ∧
      ((∃ ch, decode w = .command (.enable ch)) ∨ (∃ ch, decode w = .command (.disable ch)) ∨
        ∃ mask, decode w = .command (.init mask)) := by
  rcases presentWord_bareError_or_ok h with ⟨d, ok⟩ | ⟨st, _, bare⟩
  · cases hw : decode w with
    | illegal why =>
      obtain rfl := Host.Outcome.next.inj ((presentWord_of_illegal hw s).symm.trans h)
      rcases illegalCommand_cases s with hx | hx <;> rw [hx]
      · exact .inl (sameOutputs_respond _ _ s)
      · exact .inl (sameOutputs_raiseFault _ s)
    | command i =>
      cases exec_outcome ((presentWord_of_command hw s).symm.trans h) with
      | answer st d _ after => exact .inl (after ▸ sameOutputs_respond st d s)
      | fault e after => exact .inl (after ▸ sameOutputs_raiseFault e s)
      | init mask p r word => exact .inr ⟨d, ok, .inr (.inr ⟨mask, by rw [word]⟩)⟩
      | enable ch word => exact .inr ⟨d, ok, .inl ⟨ch, by rw [word]⟩⟩
      | disable ch word => exact .inr ⟨d, ok, .inr (.inl ⟨ch, by rw [word]⟩)⟩
      | setDuty ch v word hl hb after =>
        exact .inl (after ▸ sameOutputs_setDutyEffect ((good hl).pwm ch hb).2 v)
  · exact .inl (sameOutputs_of_bareError bare)

/-- Of all steps from a good state, TICKs and those three commands alone change an output. -/
theorem listed_of_step_not_sameOutputs {s t : State} (good : GoodWhileRunning s)
    (h : step s = .next t) (changed : ¬ SameOutputs s t) :
    (nextMove s).1 = .tick ∨
    ∃ w d, (nextMove s).1 = .command w ∧ t.response = some ⟨.ok, d⟩ ∧
      ((∃ ch, decode w = .command (.enable ch)) ∨ (∃ ch, decode w = .command (.disable ch)) ∨
        ∃ mask, decode w = .command (.init mask)) := by
  have taken := sameOutputs_nextMove s
  have next : GoodWhileRunning (nextMove s).2 := by
    rw [nextMove_frame]
    exact goodWhileRunning_keptByMoves.taken s _ good
  rcases step_moves h with ⟨hm, _⟩ | ⟨c, f, _, rfl⟩ | ⟨w, hm, hw⟩
  · exact .inl hm
  · exact absurd (sameOutputs_trans taken (sameOutputs_drivePorts c f _)) changed
  · rcases sameOutputs_or_enable_disable_init next hw with same | ⟨d, ok, listed⟩
    · exact absurd (sameOutputs_trans taken same) changed
    · exact .inr ⟨w, d, hm, ok, listed⟩

/-- A command that none of INIT, ENABLE, DISABLE and SET_DUTY is leaves every output. -/
theorem sameOutputs_of_exec {i : Instr} {s t : State} (notInit : ∀ mask, i ≠ .init mask)
    (notEnable : ∀ ch, i ≠ .enable ch) (notDisable : ∀ ch, i ≠ .disable ch)
    (preload : ∀ ch v, i = .setDuty ch v → s.life = .running → s.bound ch = true →
      s.field (.ocpe ch) = 1)
    (h : exec i s = .next t) : SameOutputs s t := by
  cases exec_outcome h with
  | answer st d _ after => exact after ▸ sameOutputs_respond st d s
  | fault e after => exact after ▸ sameOutputs_raiseFault e s
  | init mask p r word => exact absurd word (notInit mask)
  | enable ch word => exact absurd word (notEnable ch)
  | disable ch word => exact absurd word (notDisable ch)
  | setDuty ch v word hl hb after =>
    exact after ▸ sameOutputs_setDutyEffect (preload ch v word hl hb) v

/-! ## ENABLE and DISABLE -/

theorem out_enableEffect_same {s : State} (moe : s.field .moe = 1) (ch : Channel) (draw : Level) :
    out draw ch (enableEffect ch s) = (ocref draw ch s).drive := by
  have driven : (enableEffect ch s).field .moe = 1 ∧ (enableEffect ch s).field (.cce ch) = 1 :=
    ⟨(field_enableEffect ch s .moe (by decide)).trans moe,
      (cce_enableEffect ch ch s).trans (if_pos rfl)⟩
  rw [out, if_pos driven, ocref_enableEffect]

theorem out_disableEffect_same (ch : Channel) (s : State) (draw : Level) :
    out draw ch (disableEffect ch s) = .off :=
  out_of_not_enabled (by rw [cce_disableEffect, if_pos rfl]; decide)

theorem outn_disableEffect (ch ch' : Channel) (s : State) (draw : Level) :
    outn draw ch' (disableEffect ch s) = outn draw ch' s :=
  outn_congr draw ch' (ocref_disableEffect draw ch ch' s)
    (field_disableEffect ch s .moe (by decide)) (ccne_disableEffect ch ch' s)

theorem outputs_enableEffect_apart {ch ch' : Channel} (other : ch' ≠ ch) (s : State)
    (draw : Level) :
    out draw ch' (enableEffect ch s) = out draw ch' s ∧
      outn draw ch' (enableEffect ch s) = outn draw ch' s := by
  have ref := ocref_enableEffect draw ch ch' s
  have moe := field_enableEffect ch s .moe (by decide)
  exact ⟨out_congr draw ch' ref moe ((cce_enableEffect ch ch' s).trans (if_neg other)),
    outn_congr draw ch' ref moe fun f hf =>
      (ccne_enableEffect ch ch' s f hf).trans (if_neg other)⟩

theorem out_disableEffect_apart {ch ch' : Channel} (other : ch' ≠ ch) (s : State) (draw : Level) :
    out draw ch' (disableEffect ch s) = out draw ch' s :=
  out_congr draw ch' (ocref_disableEffect draw ch ch' s)
    (field_disableEffect ch s .moe (by decide))
    ((cce_disableEffect ch ch' s).trans (if_neg other))

/-- Settles O49: by the outcome of each word; the outputs after ENABLE and DISABLE are those of
their own channel's bits. -/
theorem outputsChangeOnlyAsListed : Obligations.OutputsChangeOnlyAsListed := by
  refine ⟨fun s t good h changed => listed_of_step_not_sameOutputs good h changed,
    fun s t w st d h answer error =>
      sameOutputs_of_bareError (bareError_of_presentWord h answer error).2,
    fun s t => sameOutputs_of_exec nofun nofun nofun nofun,
    fun s t ch => sameOutputs_of_exec nofun nofun nofun nofun,
    fun s t ch => sameOutputs_of_exec nofun nofun nofun nofun,
    fun s c f => sameOutputs_drivePorts c f s,
    fun s t ch v good => sameOutputs_of_exec nofun nofun nofun fun ch' _ _ hl hb =>
      ((good hl).pwm ch' hb).2,
    fun s t ch good hl hb h => ?_, fun s t ch good hl hb h => ?_⟩
  · obtain rfl := Host.Outcome.next.inj ((exec_enable_of_running hl hb).symm.trans h)
    refine ⟨out_enableEffect_same (good hl).moe ch, fun draw d => outn_off_of_ccne_clear
      fun f hf => (ccne_enableEffect ch ch s f hf).trans (if_pos rfl), fun draw ch' other =>
      outputs_enableEffect_apart other s draw⟩
  · obtain rfl := Host.Outcome.next.inj ((exec_disable_of_running hl hb).symm.trans h)
    exact ⟨out_disableEffect_same ch s, outn_disableEffect ch ch s, fun draw ch' other =>
      ⟨out_disableEffect_apart other s draw, outn_disableEffect ch ch' s draw⟩⟩

/-! ## The start of the waveform, and when a new compare value is in use -/

/-- A compare value of 0 is never above the count. -/
theorem ocref_low_of_zero {draw : Level} {ch : Channel} {s : State}
    (mode : s.field (.ocm ch) = Config.ocmPwm1) (zero : s.ccrSh.get ch = 0#16) :
    ocref draw ch s = .low := by
  rw [ocref_of_pwm1 mode, zero, if_neg BitVec.not_lt_zero]

theorem get_compareFile_reset (ch : Channel) : CompareFile.reset.get ch = 0#16 := by
  cases ch <;> rfl

/-- After SET_DUTY the values in use stay until the TICK that ends the period, which loads the value
(R45, R205, R233). -/
theorem ticks_setDutyEffect {ch : Channel} {s : State} (inv : RunningInvariant s)
    (hb : s.bound ch = true) (v : Half) (n : Nat) :
    (elapsed s + n < periodTicks s → (ticks n (setDutyEffect ch v s)).ccrSh = s.ccrSh) ∧
    (elapsed s + n = periodTicks s → (ticks n (setDutyEffect ch v s)).ccrSh.get ch = v) := by
  rw [setDutyEffect_of_preload (inv.pwm ch hb).2]
  have inside : InPeriod { s with ccr := s.ccr.set ch v, response := some ⟨.ok, 0⟩ } :=
    ⟨inv.cen, inv.pscnt, inv.cnt⟩
  refine ⟨fun before => ?_, fun last => ?_⟩
  · rw [(ticks_within_period inside before).2]
  · rw [ticks_to_period_end inside last]
    exact CompareFile.get_set_same _ _ _

/-- INIT leaves the counter at the start of a period of the resolved length, every channel bound,
and compare values in use of 0 (R171, R173; log 6). -/
theorem period_handOver_initWrites (p r : Half) (s : State) :
    elapsed (handOver 0b1111#4 (initWrites 0b1111#4 p r s)) = 0 ∧
    periodTicks (handOver 0b1111#4 (initWrites 0b1111#4 p r s)) =
      (p.toNat + 1) * (r.toNat + 1) ∧
    (handOver 0b1111#4 (initWrites 0b1111#4 p r s)).ccrSh = CompareFile.reset ∧
    ∀ ch, (handOver 0b1111#4 (initWrites 0b1111#4 p r s)).bound ch = true := by
  rw [handOver_initWrites]
  exact ⟨elapsed_of_start rfl rfl, rfl, rfl,
    bound_of_mem_supportedSets (mem_supportedSets_iff.2 rfl)⟩

/-- Settles O50: INIT leaves the counter at the start of a period, in which the compare values in
use are 0 until the TICK that ends it. -/
theorem firstPeriodIsLow : Obligations.FirstPeriodIsLow := by
  intro s t u ch v p r hl hr hinit hduty
  obtain rfl := Host.Outcome.next.inj ((exec_init_of_resolve_ok hl hr).symm.trans hinit)
  obtain ⟨start, period, zero, bound⟩ := period_handOver_initWrites p r s
  have mode := ocm_handOver_initWrites p r s
  have inv := runningInvariant_handOver_initWrites p r s
  obtain rfl :=
    Host.Outcome.next.inj ((exec_setDuty_of_running rfl (bound ch) v).symm.trans hduty)
  have after := ticks_setDutyEffect inv (bound ch) v
  rw [start, period] at after
  refine ⟨fun n hn draw ch' => ocref_low_of_zero ?_ ?_, (after _).2 (Nat.zero_add _)⟩
  · rw [ticks_field, field_setDutyEffect, mode]
  · rw [(after n).1 ((Nat.zero_add n).symm ▸ hn), zero, get_compareFile_reset]

/-- Settles O51: the TICK that ends the period is the first with the new value in use. -/
theorem newDutyIsInUseWithinOnePeriod : Obligations.NewDutyIsInUseWithinOnePeriod := by
  intro s t ch v inv hl hb h
  obtain rfl := Host.Outcome.next.inj ((exec_setDuty_of_running hl hb v).symm.trans h)
  have started := elapsed_lt_periodTicks inv.inPeriod
  have after := ticks_setDutyEffect inv hb v
  exact ⟨periodTicks s - elapsed s, by omega, by omega, fun n hn => (after n).1 (by omega),
    (after _).2 (by omega)⟩

end Sys2Proof
end

section
/-! The power-on state, and what can be seen of the timer before INIT (R54). -/

namespace Sys2Proof

open Sys2Proof.Machine

/-- Two next states agree in all that can be seen before INIT, and in everything once the block
runs. -/
def AgreeUntilInit (t t' : State) : Prop :=
  sameBeforeInit t t' ∧ (t.life = .running → t = t')

section OfSameBeforeInit

variable {s s' : State} (same : sameBeforeInit s s')
include same

theorem agreeUntilInit_raiseFault (e : ErrorCode) :
    AgreeUntilInit (raiseFault e s) (raiseFault e s') := by
  obtain ⟨-, chset, clk, freq, -, schedule⟩ := same
  exact ⟨⟨rfl, chset, clk, freq, rfl, schedule⟩, nofun⟩

/-- INIT overwrites every register, shadow copy and count (R163 to R170). -/
theorem agreeUntilInit_handOver_initWrites (p r : Half) :
    AgreeUntilInit (handOver 0b1111#4 (initWrites 0b1111#4 p r s))
      (handOver 0b1111#4 (initWrites 0b1111#4 p r s')) := by
  obtain ⟨-, -, clk, freq, -, schedule⟩ := same
  have equal : handOver 0b1111#4 (initWrites 0b1111#4 p r s) =
      handOver 0b1111#4 (initWrites 0b1111#4 p r s') := by
    simp only [handOver_initWrites, resetTimer, clk, freq, schedule]
  rw [equal]
  exact ⟨⟨rfl, rfl, rfl, rfl, rfl, rfl⟩, fun _ => rfl⟩

variable (hl : s.life = .unconfigured)
include hl

theorem agreeUntilInit_respond (st : Status) (d : Word) :
    AgreeUntilInit (respond st d s) (respond st d s') := by
  obtain ⟨life, chset, clk, freq, -, schedule⟩ := same
  refine ⟨⟨life, chset, clk, freq, rfl, schedule⟩, fun running => ?_⟩
  cases hl.symm.trans running

theorem agreeUntilInit_exec {i : Instr} {t t' : State} (h : exec i s = .next t)
    (h' : exec i s' = .next t') : AgreeUntilInit t t' := by
  have hl' : s'.life = .unconfigured := same.1.symm.trans hl
  have before := isFaulted_eq_false_iff.2 (.inl hl)
  have before' := isFaulted_eq_false_iff.2 (.inl hl')
  obtain ⟨-, -, clk, freq, -, -⟩ := id same
  cases hc : i.channel? with
  | some ch =>
    obtain ⟨body, -, hx⟩ := exec_keepsToChannel hc
    rw [hx, channelCommand_of_unconfigured hl] at h
    rw [hx, channelCommand_of_unconfigured hl'] at h'
    obtain rfl := Host.Outcome.next.inj h
    obtain rfl := Host.Outcome.next.inj h'
    exact agreeUntilInit_raiseFault same _
  | none =>
    cases i with
    | resolve =>
      obtain rfl := Host.Outcome.next.inj ((exec_resolve_of_not_faulted before).symm.trans h)
      obtain rfl := Host.Outcome.next.inj ((exec_resolve_of_not_faulted before').symm.trans h')
      rw [← clk, ← freq]
      cases hr : resolve s.clkRate.toNat s.targetFreq.toNat with
      | ok p r =>
        rw [resolveResponse_of_ok hr, resolveResponse_of_ok hr]
        exact agreeUntilInit_respond same hl _ _
      | err e =>
        rw [resolveResponse_of_err hr, resolveResponse_of_err hr]
        exact agreeUntilInit_respond same hl _ _
    | init mask =>
      obtain rfl := Host.Outcome.next.inj ((exec_init_of_not_faulted before mask).symm.trans h)
      obtain rfl := Host.Outcome.next.inj ((exec_init_of_not_faulted before' mask).symm.trans h')
      rw [← clk, ← freq]
      by_cases supported : mask ∈ Config.supportedSets
      · obtain rfl := mem_supportedSets_iff.1 supported
        cases hr : resolve s.clkRate.toNat s.targetFreq.toNat with
        | ok p r =>
          rw [initWith_of_resolve_ok hl hr, initWith_of_resolve_ok hl' hr]
          exact agreeUntilInit_handOver_initWrites same p r
        | err e =>
          rw [initWith_of_unconfigured_of_resolve_err hl hr,
            initWith_of_unconfigured_of_resolve_err hl' hr]
          exact agreeUntilInit_raiseFault same e
      · rw [initWith_of_conflict (.inr supported), initWith_of_conflict (.inr supported)]
        exact agreeUntilInit_raiseFault same _
    | enable ch => cases hc
    | disable ch => cases hc
    | getDuty ch => cases hc
    | setDuty ch v => cases hc
    | getMaxDuty ch => cases hc

theorem agreeUntilInit_performMove (stopped : s.field .cen = 0) (stopped' : s'.field .cen = 0)
    {m : Move} {t t' : State} (h : performMove m s = .next t) (h' : performMove m s' = .next t') :
    AgreeUntilInit t t' := by
  cases m with
  | tick =>
    obtain rfl := Host.Outcome.next.inj h
    obtain rfl := Host.Outcome.next.inj h'
    rw [tick_of_stopped stopped, tick_of_stopped stopped']
    exact ⟨same, fun running => by cases hl.symm.trans running⟩
  | ports c f =>
    obtain rfl := Host.Outcome.next.inj h
    obtain rfl := Host.Outcome.next.inj h'
    obtain ⟨life, chset, -, -, response, schedule⟩ := same
    exact ⟨⟨life, chset, rfl, rfl, response, schedule⟩,
      fun running => by cases hl.symm.trans running⟩
  | command w =>
    simp only [performMove] at h h'
    cases hw : decode w with
    | command i =>
      rw [presentWord_of_command hw] at h h'
      exact agreeUntilInit_exec same hl h h'
    | illegal why =>
      have hl' : s'.life = .unconfigured := same.1.symm.trans hl
      rw [presentWord_of_illegal hw, illegalCommand_of_not_faulted
        (isFaulted_eq_false_iff.2 (.inl hl))] at h
      rw [presentWord_of_illegal hw, illegalCommand_of_not_faulted
        (isFaulted_eq_false_iff.2 (.inl hl'))] at h'
      obtain rfl := Host.Outcome.next.inj h
      obtain rfl := Host.Outcome.next.inj h'
      exact agreeUntilInit_raiseFault same _

end OfSameBeforeInit

/-- The two states make the same move, and agree after it is taken off their schedules. -/
theorem sameBeforeInit_nextMove {s s' : State} (same : sameBeforeInit s s') :
    (nextMove s).1 = (nextMove s').1 ∧ sameBeforeInit (nextMove s).2 (nextMove s').2 := by
  obtain ⟨life, chset, clk, freq, response, schedule⟩ := same
  refine ⟨?_, ?_⟩
  · simp only [nextMove, schedule]
    cases s'.schedule <;> rfl
  · rw [nextMove_frame, nextMove_frame]
    exact ⟨life, chset, clk, freq, response, congrArg List.tail schedule⟩

/-- Settles O59: the reset values as written, outputs OFF since every enable bit is clear, and one
step of two states that agree before INIT, move by move. -/
theorem powerOnStateAndItsObservers : Obligations.PowerOnStateAndItsObservers := by
  refine ⟨⟨rfl, rfl, fun r => by cases r <;> rfl, rfl, rfl, get_compareFile_reset, rfl, rfl, rfl,
    rfl, rfl⟩, fun draw ch => ⟨?_, fun d => ?_⟩, fun s s' t t' hl stopped stopped' same h h' => ?_⟩
  · refine out_of_not_enabled (s := atReset []) ?_
    rw [cce_atReset]
    decide
  · exact outn_off_of_ccne_clear (complementaryOff_atReset [] ch)
  · obtain ⟨move, taken⟩ := sameBeforeInit_nextMove same
    rw [step] at h h'
    rw [← move] at h'
    exact agreeUntilInit_performMove taken ((nextMove_life s).trans hl)
      ((nextMove_field s _).trans stopped) ((nextMove_field s' _).trans stopped') h h'

end Sys2Proof
end
